-- ==== Sys2Proof/Word.lean ====
section
/-! DEFINITION. The words of DSPCORE: 8-bit bytes, 32-bit command words and binary64 patterns
(00_scope.md R8, R9). A binary64 value is its 64-bit pattern; its arithmetic stands in
Machine/Float.lean. -/

namespace Sys2Proof

/-- One byte of a serialised packet (20_memory.md R55). -/
abbrev Byte := BitVec 8

/-- A 32-bit command word `CW` (30_encoding.md R71). -/
abbrev CmdWord := BitVec 32

/-- A binary64 value as its 64-bit pattern: bit 63 the sign, 62:52 the biased exponent, 51:0 the
fraction (00_scope.md R9). Operand and result words are of this width too (R8). -/
abbrev F64 := BitVec 64

end Sys2Proof
end

