-- ==== Sys2Proof/Syntax.lean ====
section
/-! DEFINITION. The syntax of DSPCORE: command packets, status codes, response packets, what the
host can do, and the 17 commands of 30_encoding.md R81. -/

namespace Sys2Proof

/-- A command packet: a 32-bit command word and K operand words; K is the length of `ops`
(30_encoding.md R71). -/
structure Packet where
  cw  : CmdWord
  ops : List F64
  deriving DecidableEq, Repr

/-- The status of a response (60_exceptions.md R231); 7 to 255 are never returned. -/
inductive Status where
  | ok
  | notPow2
  | length
  | illegal
  | index
  | fftFault
  | capacity
  deriving DecidableEq, Repr

/-- The 8-bit `STATUS` code of 60_exceptions.md R231. -/
def Status.code : Status → BitVec 8
  | .ok       => 0
  | .notPow2  => 1
  | .length   => 2
  | .illegal  => 3
  | .index    => 4
  | .fftFault => 5
  | .capacity => 6

/-- A response packet: a status and M result words (30_encoding.md R73). -/
structure Response where
  status : Status
  words  : List (BitVec 64)
  deriving DecidableEq, Repr

/-- What the host can do to the block (20_memory.md R59): send one command packet, or apply reset.
`abandoned` is the packet that was executing when reset came, if any (70_reset_and_hazards.md
R262). -/
inductive HostInput where
  | packet (p : Packet)
  | reset (abandoned : Option Packet)
  deriving DecidableEq, Repr

/-- The 17 commands (30_encoding.md R81), one constructor per row of the opcode table, with the
integer fields of the command word and the operand words. -/
inductive Instr where
  /-- `RD SPACE, IDX` (44_access.md R221). -/
  | rd (space : BitVec 4) (idx : BitVec 20)
  /-- `FFT.CFG N ; fs` (41_fft.md R140). -/
  | fftCfg (n : BitVec 24) (fs : F64)
  /-- `FFT.FWD ; [buffer]` (41_fft.md R141). -/
  | fftFwd (buffer : List F64)
  /-- `FFT.INV SRC ; [real] [imag]` (41_fft.md R146). -/
  | fftInv (src : BitVec 2) (ops : List F64)
  /-- `FFT.BANDF IDX` (41_fft.md R150). -/
  | fftBandf (idx : BitVec 24)
  /-- `BQ.SET TYPE, PM ; [f0] [Q] [gainDb]` (42_biquad_designer.md R171). -/
  | bqSet (type : BitVec 4) (pm : BitVec 4) (ops : List F64)
  /-- `BQ.SETTYPE TYPE` (42_biquad_designer.md R173). -/
  | bqSetType (type : BitVec 4)
  /-- `BQ.SETFREQ ; f0` (42_biquad_designer.md R174). -/
  | bqSetFreq (f0 : F64)
  /-- `BQ.SETQ ; Q` (42_biquad_designer.md R175). -/
  | bqSetQ (q : F64)
  /-- `BQ.SETGAIN ; gainDb` (42_biquad_designer.md R176). -/
  | bqSetGain (gain : F64)
  /-- `BQ.SETBW ; bw` (42_biquad_designer.md R177). -/
  | bqSetBw (bw : F64)
  /-- `BQ.SETFS ; fs` (42_biquad_designer.md R178). -/
  | bqSetFs (fs : F64)
  /-- `BQ.RECOMPUTE` (42_biquad_designer.md R180). -/
  | bqRecompute
  /-- `BQ.COEFFS ; a0, b0, b1, b2, a1, a2` (42_biquad_designer.md R191). -/
  | bqCoeffs (a0 b0 b1 b2 a1 a2 : F64)
  /-- `BQ.TICK ; x` (43_biquad_processor.md R202). -/
  | bqTick (x : F64)
  /-- `BQ.PROCESS ; x0, x1, ...` (43_biquad_processor.md R203). -/
  | bqProcess (buffer : List F64)
  /-- `BQ.CLEAR` (43_biquad_processor.md R204). -/
  | bqClear
  deriving DecidableEq, Repr

end Sys2Proof
end

