-- ==== Sys2Proof/WellFormed.lean ====
section
/-! DEFINITION. Which terms of `Instr` are commands: the conditions of 30_encoding.md R85 that the
types of the fields do not carry. Field widths are carried by the types; a buffer command takes any
number of operand words (R83). -/

namespace Sys2Proof

/-- The operand words `BQ.SET` requires: popcount of `PM[3:1]` (30_encoding.md R83). -/
def presentCount (pm : BitVec 4) : Nat :=
  (pm[1]).toNat + (pm[2]).toNat + (pm[3]).toNat

/-- The condition of 30_encoding.md R85 (c): a `BQ.SET` whose type is absent has type field 0. -/
def typeFieldOk (type pm : BitVec 4) : Bool :=
  pm[0] || type == 0

/-- A term is a command of 30_encoding.md R81: no condition of R85 makes its packet illegal. -/
def Instr.wf : Instr → Bool
  | .rd _ _               => true
  | .fftCfg _ _           => true
  | .fftFwd _             => true
  | .fftInv _ _           => true
  | .fftBandf _           => true
  | .bqSet type pm ops    => typeFieldOk type pm && ops.length == presentCount pm
  | .bqSetType _          => true
  | .bqSetFreq _          => true
  | .bqSetQ _             => true
  | .bqSetGain _          => true
  | .bqSetBw _            => true
  | .bqSetFs _            => true
  | .bqRecompute          => true
  | .bqCoeffs _ _ _ _ _ _ => true
  | .bqTick _             => true
  | .bqProcess _          => true
  | .bqClear              => true

end Sys2Proof
end

