-- ==== Sys2Proof/Decode.lean ====
section
/-! DEFINITION. The decoder and the encoder of command packets (30_encoding.md R70 to R88), the
serialisation of packets to bytes (20_memory.md R55), and the reading of an opcode-table word.
Decoding is total: every packet is a command or is rejected by name (R85). -/

namespace Sys2Proof

/-- The opcodes of 30_encoding.md R81, by name. -/
inductive Op where
  | rd | fftCfg | fftFwd | fftInv | fftBandf | bqSet | bqSetType | bqSetFreq | bqSetQ | bqSetGain
  | bqSetBw | bqSetFs | bqRecompute | bqCoeffs | bqTick | bqProcess | bqClear
  deriving DecidableEq, Repr

/-- The opcode byte `OPC = CW[31:24]` (30_encoding.md R74, R81). -/
def Op.code : Op → BitVec 8
  | .rd          => 0x01
  | .fftCfg      => 0x10
  | .fftFwd      => 0x11
  | .fftInv      => 0x12
  | .fftBandf    => 0x13
  | .bqSet       => 0x20
  | .bqSetType   => 0x21
  | .bqSetFreq   => 0x22
  | .bqSetQ      => 0x23
  | .bqSetGain   => 0x24
  | .bqSetBw     => 0x25
  | .bqSetFs     => 0x26
  | .bqRecompute => 0x27
  | .bqCoeffs    => 0x28
  | .bqTick      => 0x30
  | .bqProcess   => 0x31
  | .bqClear     => 0x32

/-- Every opcode, in the order of 30_encoding.md R81. -/
def Op.all : List Op :=
  [.rd, .fftCfg, .fftFwd, .fftInv, .fftBandf, .bqSet, .bqSetType, .bqSetFreq, .bqSetQ, .bqSetGain,
   .bqSetBw, .bqSetFs, .bqRecompute, .bqCoeffs, .bqTick, .bqProcess, .bqClear]

/-- The opcode an opcode byte names, none where it is unassigned (30_encoding.md R81). -/
def Op.ofCode (b : BitVec 8) : Option Op :=
  Op.all.find? fun op => op.code == b

/-- The bits of `CW[23:0]` that the opcode's format marks "zero" (30_encoding.md R74 to R80, R88). -/
def Op.zeroMask : Op → BitVec 24
  | .rd          => 0x000000
  | .fftCfg      => 0x000000
  | .fftFwd      => 0xFFFFFF
  | .fftInv      => 0xFFFFFC
  | .fftBandf    => 0x000000
  | .bqSet       => 0xFFFF00
  | .bqSetType   => 0xFFFFF0
  | .bqSetFreq   => 0xFFFFFF
  | .bqSetQ      => 0xFFFFFF
  | .bqSetGain   => 0xFFFFFF
  | .bqSetBw     => 0xFFFFFF
  | .bqSetFs     => 0xFFFFFF
  | .bqRecompute => 0xFFFFFF
  | .bqCoeffs    => 0xFFFFFF
  | .bqTick      => 0xFFFFFF
  | .bqProcess   => 0xFFFFFF
  | .bqClear     => 0xFFFFFF

/-- The table row's `mask`: the opcode byte and every "zero" field (30_encoding.md R88). -/
def Op.mask (op : Op) : CmdWord := 0xFF#8 ++ op.zeroMask

/-- The table row's `match` (30_encoding.md R88). -/
def Op.matchWord (op : Op) : CmdWord := op.code ++ 0#24

/-- `CW[31:24]` (30_encoding.md R74). -/
def CmdWord.opc (cw : CmdWord) : BitVec 8 := cw.extractLsb' 24 8

/-- `CW[23:0]` (30_encoding.md R74). -/
def CmdWord.low (cw : CmdWord) : BitVec 24 := cw.extractLsb' 0 24

/-- `SPACE = CW[23:20]` (30_encoding.md R80). -/
def fieldSpace (f : BitVec 24) : BitVec 4 := f.extractLsb' 20 4

/-- `IDX = CW[19:0]` of format R (30_encoding.md R80). -/
def fieldIdx (f : BitVec 24) : BitVec 20 := f.extractLsb' 0 20

/-- `SRC = CW[1:0]` (30_encoding.md R78). -/
def fieldSrc (f : BitVec 24) : BitVec 2 := f.extractLsb' 0 2

/-- `TYPE = CW[3:0]` (30_encoding.md R79). -/
def fieldType (f : BitVec 24) : BitVec 4 := f.extractLsb' 0 4

/-- `PM = CW[7:4]` (30_encoding.md R79). -/
def fieldPm (f : BitVec 24) : BitVec 4 := f.extractLsb' 4 4

/-- Why a packet is illegal: the four cases of 30_encoding.md R85, and a byte string that is not a
whole packet (20_memory.md R55). -/
inductive DecodeError where
  /-- R85 (a): the opcode is unassigned. -/
  | unassignedOpcode
  /-- R85 (b): a field the format marks "zero" is not 0. -/
  | nonZeroField
  /-- R85 (c): `BQ.SET` with `PM[0] = 0` and `TYPE ≠ 0`. -/
  | typeWithoutPresent
  /-- R85 (d): the operand count is not the one R83 requires. -/
  | operandCount
  /-- The bytes are not one command word and whole operand words (R55, R71). -/
  | notWholePacket
  deriving DecidableEq, Repr

/-- The command of an opcode with low field `f` and operand words `ops`; none where the operand count
is not the one 30_encoding.md R83 requires. -/
def Op.build (op : Op) (f : BitVec 24) (ops : List F64) : Option Instr :=
  match op, ops with
  | .rd, []                              => some (.rd (fieldSpace f) (fieldIdx f))
  | .fftCfg, [fs]                        => some (.fftCfg f fs)
  | .fftFwd, buffer                      => some (.fftFwd buffer)
  | .fftInv, ops                         => some (.fftInv (fieldSrc f) ops)
  | .fftBandf, []                        => some (.fftBandf f)
  | .bqSet, ops                          =>
      if ops.length = presentCount (fieldPm f) then some (.bqSet (fieldType f) (fieldPm f) ops)
      else none
  | .bqSetType, []                       => some (.bqSetType (fieldType f))
  | .bqSetFreq, [f0]                     => some (.bqSetFreq f0)
  | .bqSetQ, [q]                         => some (.bqSetQ q)
  | .bqSetGain, [gain]                   => some (.bqSetGain gain)
  | .bqSetBw, [bw]                       => some (.bqSetBw bw)
  | .bqSetFs, [fs]                       => some (.bqSetFs fs)
  | .bqRecompute, []                     => some .bqRecompute
  | .bqCoeffs, [a0, b0, b1, b2, a1, a2]  => some (.bqCoeffs a0 b0 b1 b2 a1 a2)
  | .bqTick, [x]                         => some (.bqTick x)
  | .bqProcess, buffer                   => some (.bqProcess buffer)
  | .bqClear, []                         => some .bqClear
  | _, _                                 => none

/-- The decoder (30_encoding.md R83, R85): the checks (a), (b), (c), (d) in that order. -/
def decode (p : Packet) : Except DecodeError Instr :=
  match Op.ofCode (CmdWord.opc p.cw) with
  | none => .error .unassignedOpcode
  | some op =>
    let f := CmdWord.low p.cw
    if f &&& op.zeroMask ≠ 0 then .error .nonZeroField
    else if op = .bqSet ∧ typeFieldOk (fieldType f) (fieldPm f) = false then
      .error .typeWithoutPresent
    else
      match op.build f p.ops with
      | none   => .error .operandCount
      | some i => .ok i

/-! ### The encoder, from the formats of 30_encoding.md R74 to R80 -/

/-- The opcode of a command (30_encoding.md R81). -/
def Instr.op : Instr → Op
  | .rd _ _               => .rd
  | .fftCfg _ _           => .fftCfg
  | .fftFwd _             => .fftFwd
  | .fftInv _ _           => .fftInv
  | .fftBandf _           => .fftBandf
  | .bqSet _ _ _          => .bqSet
  | .bqSetType _          => .bqSetType
  | .bqSetFreq _          => .bqSetFreq
  | .bqSetQ _             => .bqSetQ
  | .bqSetGain _          => .bqSetGain
  | .bqSetBw _            => .bqSetBw
  | .bqSetFs _            => .bqSetFs
  | .bqRecompute          => .bqRecompute
  | .bqCoeffs _ _ _ _ _ _ => .bqCoeffs
  | .bqTick _             => .bqTick
  | .bqProcess _          => .bqProcess
  | .bqClear              => .bqClear

/-- `CW[23:0]` of a command (30_encoding.md R74): format Z 0, N `N`, X `IDX`, S `SRC`, T
`{PM, TYPE}`, R `{SPACE, IDX}`. -/
def Instr.low : Instr → BitVec 24
  | .rd space idx         => space ++ idx
  | .fftCfg n _           => n
  | .fftFwd _             => 0
  | .fftInv src _         => 0#22 ++ src
  | .fftBandf idx         => idx
  | .bqSet type pm _      => 0#16 ++ (pm ++ type)
  | .bqSetType type       => 0#20 ++ type
  | .bqSetFreq _          => 0
  | .bqSetQ _             => 0
  | .bqSetGain _          => 0
  | .bqSetBw _            => 0
  | .bqSetFs _            => 0
  | .bqRecompute          => 0
  | .bqCoeffs _ _ _ _ _ _ => 0
  | .bqTick _             => 0
  | .bqProcess _          => 0
  | .bqClear              => 0

/-- The operand words of a command in packet order (30_encoding.md R81). -/
def Instr.operands : Instr → List F64
  | .rd _ _                     => []
  | .fftCfg _ fs                => [fs]
  | .fftFwd buffer              => buffer
  | .fftInv _ ops               => ops
  | .fftBandf _                 => []
  | .bqSet _ _ ops              => ops
  | .bqSetType _                => []
  | .bqSetFreq f0               => [f0]
  | .bqSetQ q                   => [q]
  | .bqSetGain gain             => [gain]
  | .bqSetBw bw                 => [bw]
  | .bqSetFs fs                 => [fs]
  | .bqRecompute                => []
  | .bqCoeffs a0 b0 b1 b2 a1 a2 => [a0, b0, b1, b2, a1, a2]
  | .bqTick x                   => [x]
  | .bqProcess buffer           => buffer
  | .bqClear                    => []

/-- The packet of a command: `{OPC, CW[23:0]}` and its operand words (30_encoding.md R74, R81). -/
def encode (i : Instr) : Packet :=
  { cw := i.op.code ++ i.low, ops := i.operands }

/-! ### Bytes (20_memory.md R55) -/

/-- The `k` bytes of a number, least significant first. -/
def bytesOfNat : Nat → Nat → List Byte
  | 0, _     => []
  | k + 1, n => BitVec.ofNat 8 n :: bytesOfNat k (n / 256)

/-- The number a little-endian list of bytes holds. -/
def natOfBytes : List Byte → Nat
  | []      => 0
  | b :: bs => b.toNat + 256 * natOfBytes bs

/-- The byte form of a packet: little-endian, words in packet order (20_memory.md R55). -/
def Packet.toBytes (p : Packet) : List Byte :=
  bytesOfNat 4 p.cw.toNat ++ p.ops.flatMap fun w => bytesOfNat 8 w.toNat

/-- The byte form of a response: the status byte, then the result words (30_encoding.md R73,
20_memory.md R55). -/
def Response.toBytes (r : Response) : List Byte :=
  r.status.code :: r.words.flatMap fun w => bytesOfNat 8 w.toNat

/-- The 64-bit words of a byte list whose length is a multiple of 8; none otherwise. -/
def wordsOfBytes : List Byte → Option (List (BitVec 64))
  | [] => some []
  | b0 :: b1 :: b2 :: b3 :: b4 :: b5 :: b6 :: b7 :: rest =>
      (wordsOfBytes rest).map
        (BitVec.ofNat 64 (natOfBytes [b0, b1, b2, b3, b4, b5, b6, b7]) :: ·)
  | _ => none

/-- The packet a byte list holds: four bytes of command word, then whole operand words. -/
def Packet.ofBytes : List Byte → Option Packet
  | b0 :: b1 :: b2 :: b3 :: rest =>
      (wordsOfBytes rest).map fun ops =>
        { cw := BitVec.ofNat 32 (natOfBytes [b0, b1, b2, b3]), ops := ops }
  | _ => none

/-- Decoding from bytes: total on any bytes, rejecting by name. -/
def decodeBytes (bs : List Byte) : Except DecodeError Instr :=
  match Packet.ofBytes bs with
  | none   => .error .notWholePacket
  | some p => decode p

/-! ### Words of the opcode table -/

/-- The operand count a command word requires (30_encoding.md R83); 0 for the buffer commands, whose
every count is legal, and for unassigned opcodes. -/
def requiredCount (cw : CmdWord) : Nat :=
  match Op.ofCode (CmdWord.opc cw) with
  | some .fftCfg    => 1
  | some .bqSet     => presentCount (fieldPm (CmdWord.low cw))
  | some .bqSetFreq => 1
  | some .bqSetQ    => 1
  | some .bqSetGain => 1
  | some .bqSetBw   => 1
  | some .bqSetFs   => 1
  | some .bqCoeffs  => 6
  | some .bqTick    => 1
  | _               => 0

/-- Operand words `0 .. k-1` of a number whose bits 31:0 are the command word. -/
def tableOperands : Nat → Nat → List F64
  | 0, _     => []
  | k + 1, w => BitVec.ofNat 64 w :: tableOperands k (w / 2 ^ 64)

/-- The packet of an opcode-table word: bits 31:0 are the command word, later bits the operand words;
the packet has the operand words `nbits` reaches and the ones its command requires, those above
`nbits` zero. Log entry 7. -/
def tablePacket (nbits w : Nat) : Packet :=
  let v := w % 2 ^ nbits
  let cw : CmdWord := BitVec.ofNat 32 v
  let k := max ((nbits - 32 + 63) / 64) (requiredCount cw)
  { cw := cw, ops := tableOperands k (v / 2 ^ 32) }

/-- What the decoder reads from an opcode-table word of `nbits` bits. -/
def decodeTableWord (nbits w : Nat) : Option Instr :=
  match decode (tablePacket nbits w) with
  | .ok i    => some i
  | .error _ => none

/-- The packet decodes to a command (30_encoding.md R85: it is not illegal). -/
def Packet.legal (p : Packet) : Bool :=
  match decode p with
  | .ok _    => true
  | .error _ => false

end Sys2Proof
end

