-- ==== Sys2Proof/Config.lean ====
section
/-! DEFINITION. What an implementation of DSPCORE fixes and what the spec leaves open: the OPEN
parameters of 00_scope.md R7 and the free value of a produced NaN (40_numerics.md R105). Every
constant here is opaque, so a proof holds for every implementation. -/

namespace Sys2Proof

/-- The operations that can produce a NaN (40_numerics.md R101, R105, R110 to R114). -/
inductive FpOp where
  | add | mul | div | sqrt | sin | cos | atan2 | pow | bw2q
  deriving DecidableEq, Repr

/-- FREE VALUE (40_numerics.md R105, 93_implementation_defined.md U5): the NaN pattern an operation
produces. The Nat is the draw, read from the state's counter by each command that computes, so
that two commands need not give the same NaN. Log entry 1. -/
opaque Config.freeNan : Nat → FpOp → F64 → F64 → F64

/-- OPEN parameter `SIN` (00_scope.md R7, 40_numerics.md R110) on the operands whose result the rule
does not state: finite and non-zero. Log entry 3. -/
opaque Config.sinFn : F64 → F64

/-- OPEN parameter `COS` (40_numerics.md R111) on finite non-zero operands. Log entry 3. -/
opaque Config.cosFn : F64 → F64

/-- OPEN parameter `ATAN2` (40_numerics.md R112), operands `(y, x)`, on finite non-zero operands.
Log entry 3. -/
opaque Config.atan2Fn : F64 → F64 → F64

/-- OPEN parameter `POW` (40_numerics.md R113), operands `(b, y)`, where the rule states no result. For
the base 10.0 it is used within the class of numbers the real value demands. Log entries 3, 19. -/
opaque Config.powFn : F64 → F64 → F64

/-- OPEN parameter `BW2Q` (00_scope.md R7, 42_biquad_designer.md R177), operands `(bw, f0, fs)`: the
model is given it, and no formula for it. Log entry 4. -/
opaque Config.bw2qFn : F64 → F64 → F64 → F64

/-- OPEN parameter `LOG2N_MAX` less one: an integer in [0, 19] (00_scope.md R7). Log entry 5. -/
opaque Config.log2nMaxPred : Fin 20

/-- `LOG2N_MAX`, an integer in [1, 20] (00_scope.md R7). -/
def Config.log2nMax : Nat := Config.log2nMaxPred.val + 1

/-- `N_MAX = 2^LOG2N_MAX`, the largest transform length the arrays hold (00_scope.md R7). -/
def Config.nMax : Nat := 2 ^ Config.log2nMax

/-- The draw from which the ROM's entries and the reset coefficients take their NaN patterns, if any
is a NaN: the ROM has one content (41_fft.md R133). The state's counter starts above it. -/
def Config.romDraw : Nat := 0

end Sys2Proof
end

