-- ==== Sys2Proof/Machine/Float.lean ====
section
/-! DEFINITION. Binary64 arithmetic (40_numerics.md R100 to R109): every operation is the exact result
rounded once, to nearest, ties to even. A finite magnitude is held exactly as a natural number of
units of 2^-1074, the least positive binary64, so that every operation but square root is a quotient
of natural numbers before its one rounding. -/

namespace Sys2Proof.Machine

/-! ### The pattern (00_scope.md R9) -/

/-- The sign bit, bit 63. -/
def signBit (a : F64) : Bool := a.msb

/-- Bits 62:0, the pattern without its sign; ordered as the magnitudes are. -/
def magBits (a : F64) : Nat := a.toNat % 2 ^ 63

/-- Bits 62:0 of an infinity. -/
def infMag : Nat := 0x7FF0000000000000

/-- The pattern with a sign and bits 62:0. -/
def pack (sign : Bool) (mag : Nat) : F64 :=
  BitVec.ofNat 64 (if sign then 2 ^ 63 + mag else mag)

/-- A NaN: exponent all ones, fraction not zero (00_scope.md R9). -/
def isNaN (a : F64) : Bool := infMag < magBits a

/-- An infinity. -/
def isInf (a : F64) : Bool := magBits a == infMag

/-- A zero of either sign. -/
def isZero (a : F64) : Bool := magBits a == 0

/-- Neither an infinity nor a NaN. -/
def isFinite (a : F64) : Bool := magBits a < infMag

/-! ### Constants (00_scope.md R9, 40_numerics.md R109) -/

def posZero : F64 := 0x0000000000000000
def negZero : F64 := 0x8000000000000000
def posInf  : F64 := 0x7FF0000000000000
def one     : F64 := 0x3FF0000000000000
def negOne  : F64 := 0xBFF0000000000000
def two     : F64 := 0x4000000000000000
def four    : F64 := 0x4010000000000000
def ten     : F64 := 0x4024000000000000
def fifteen : F64 := 0x402E000000000000
def forty   : F64 := 0x4044000000000000
def sixty   : F64 := 0x404E000000000000
/-- The least positive binary64, 2^-1074. -/
def minSubnormal : F64 := 0x0000000000000001
/-- `PI`, the binary64 nearest to π (40_numerics.md R109). -/
def piConst : F64 := 0x400921FB54442D18
/-- A NaN pattern, where one is needed to stand for any. -/
def someNaN : F64 := 0x7FF8000000000000

/-! ### Free values within a limit, and produced NaNs -/

/-- A free value the spec limits to the patterns of a class: `free` where it is of the class, else a
member of it. -/
def limitTo (ok : F64 → Bool) (member free : F64) : F64 := if ok free then free else member

/-- The NaN an operation produces: any NaN pattern, unspecified in sign and fraction (40_numerics.md
R105, U5). Log entry 1. -/
def nanResult (draw : Nat) (op : FpOp) (a b : F64) : F64 :=
  limitTo isNaN someNaN (Config.freeNan draw op a b)

/-! ### Exact values and the one rounding -/

/-- `2^1074`: how many units of 2^-1074 make 1. -/
def unitsPerOne : Nat := 2 ^ 1074

/-- The magnitude of a finite pattern in units of 2^-1074: the fraction where the biased exponent is 0
(a zero or a subnormal, R104), else the significand shifted by the biased exponent less one. -/
def units (a : F64) : Nat :=
  let e := magBits a / 2 ^ 52
  let f := magBits a % 2 ^ 52
  if e = 0 then f else (2 ^ 52 + f) * 2 ^ (e - 1)

/-- The value of a finite pattern in units of 2^-1074. -/
def signedUnits (a : F64) : Int :=
  if signBit a then -(units a : Int) else (units a : Int)

/-- A quotient rounded to an integer, to nearest, ties to even. -/
def roundQuot (num den : Nat) : Nat :=
  let q := num / den
  let r := num % den
  if den < 2 * r ∨ (2 * r = den ∧ q % 2 = 1) then q + 1 else q

/-- How many low bits a magnitude of `q` whole units drops: those beyond the 53 of a significand. -/
def dropBits (q : Nat) : Nat := Nat.log2 q - 52

/-- The magnitude `num / den` units rounded to binary64, as bits 62:0: nearest, ties to even
(40_numerics.md R101), subnormal below 2^52 units (R104), infinity past the largest finite. The
significand `r` at shift `s` has bits `s·2^52 + r`, also where rounding carries. -/
def roundMag (num den : Nat) : Nat :=
  let s := dropBits (num / den)
  min (s * 2 ^ 52 + roundQuot num (den * 2 ^ s)) infMag

/-! ### The basic operations (40_numerics.md R101 to R104) -/

/-- The pattern with the sign bit flipped, the `−b` of 40_numerics.md R101. -/
def flipSign (a : F64) : F64 := a ^^^ negZero

/-- `fadd(a, b)` (40_numerics.md R101, R103): an exact sum of zero is +0 but for two negative zeros. -/
def fadd (draw : Nat) (a b : F64) : F64 :=
  if isNaN a || isNaN b then nanResult draw .add a b
  else if isInf a then
    if isInf b && signBit a != signBit b then nanResult draw .add a b else a
  else if isInf b then b
  else
    let z := signedUnits a + signedUnits b
    if z = 0 then pack (signBit a && signBit b) 0
    else pack (decide (z < 0)) (roundMag z.natAbs 1)

/-- `fsub(a, b) = fadd(a, −b)` (40_numerics.md R101). -/
def fsub (draw : Nat) (a b : F64) : F64 := fadd draw a (flipSign b)

/-- `fmul(a, b)` (40_numerics.md R101, R103). -/
def fmul (draw : Nat) (a b : F64) : F64 :=
  let s := signBit a != signBit b
  if isNaN a || isNaN b then nanResult draw .mul a b
  else if isInf a then if isZero b then nanResult draw .mul a b else pack s infMag
  else if isInf b then if isZero a then nanResult draw .mul a b else pack s infMag
  else pack s (roundMag (units a * units b) unitsPerOne)

/-- `fdiv(a, b)` (40_numerics.md R101, R103). -/
def fdiv (draw : Nat) (a b : F64) : F64 :=
  let s := signBit a != signBit b
  if isNaN a || isNaN b then nanResult draw .div a b
  else if isInf a then if isInf b then nanResult draw .div a b else pack s infMag
  else if isInf b then pack s 0
  else if isZero b then if isZero a then nanResult draw .div a b else pack s infMag
  else pack s (roundMag (units a * unitsPerOne) (units b))

/-- The integer square root of `n`, found bit by bit: the greatest `r + x` with `x < 2^k` whose square
is at most `n`, where `r` is a multiple of `2^k`. -/
def rootBits : Nat → Nat → Nat → Nat
  | 0, _, r     => r
  | k + 1, n, r =>
      if (r + 2 ^ k) * (r + 2 ^ k) ≤ n then rootBits k n (r + 2 ^ k) else rootBits k n r

/-- The square root of `x` (of at least 2^104) rounded to binary64, as bits 62:0, to nearest, ties to
even: the 53 leading bits of the root and a comparison of `x` with the square of the midpoint. -/
def roundRoot (x : Nat) : Nat :=
  let s := Nat.log2 x / 2 - 52
  let r := rootBits 53 (x / 4 ^ s) 0
  let mid := (2 * r + 1) * (2 * r + 1) * 4 ^ s
  s * 2 ^ 52 + if mid < 4 * x ∨ (mid = 4 * x ∧ r % 2 = 1) then r + 1 else r

/-- `fsqrt(a)` (40_numerics.md R101, R103): the root of `k` units of 2^-1074 is the root of
`k·2^1074` in those units. -/
def fsqrt (draw : Nat) (a : F64) : F64 :=
  if isNaN a then nanResult draw .sqrt a 0
  else if isZero a then a
  else if signBit a then nanResult draw .sqrt a 0
  else if isInf a then a
  else pack false (roundRoot (units a * unitsPerOne))

/-- `fneg(a)` is `fmul(−1.0, a)` (40_numerics.md R107). -/
def fneg (draw : Nat) (a : F64) : F64 := fmul draw negOne a

/-- The place of a non-NaN pattern in the order of its values: both zeros are 0. -/
def orderKey (a : F64) : Int :=
  if signBit a then -(magBits a : Int) else (magBits a : Int)

/-- `fgt(a, b)`, the quiet comparison (40_numerics.md R108). -/
def fgt (a b : F64) : Bool :=
  !isNaN a && !isNaN b && decide (orderKey b < orderKey a)

/-- `i2f(n)`: the binary64 of an unsigned integer, exact below 2^53 (40_numerics.md R108). -/
def i2f (n : Nat) : F64 := pack false (roundMag (n * unitsPerOne) 1)

/-- `TWO_PI = fmul(2.0, PI)` (40_numerics.md R109); neither operand is a NaN, so the draw is idle. -/
def twoPi : F64 := fmul Config.romDraw two piConst

/-- Two words equal up to the pattern of a NaN (40_numerics.md R105). -/
def sameUpToNaN (a b : F64) : Bool := a == b || (isNaN a && isNaN b)

end Sys2Proof.Machine
end

