-- ==== Sys2Proof/Machine/Units.lean ====
section
/-! DEFINITION. The transcendental units and the bandwidth conversion (40_numerics.md R110 to R114,
42_biquad_designer.md R177): the values the rules state, and beyond them the parameters of Config,
which have no body. -/

namespace Sys2Proof.Machine

/-- A unit's answer: a NaN answer is unspecified in sign and fraction (40_numerics.md R105, R114). -/
def unitAnswer (draw : Nat) (op : FpOp) (a b r : F64) : F64 :=
  if isNaN r then nanResult draw op a b else r

/-- `SIN(x)` (40_numerics.md R110). -/
def unitSin (draw : Nat) (x : F64) : F64 :=
  if isNaN x || isInf x then nanResult draw .sin x 0
  else if isZero x then x
  else unitAnswer draw .sin x 0 (Config.sinFn x)

/-- `COS(x)` (40_numerics.md R111). -/
def unitCos (draw : Nat) (x : F64) : F64 :=
  if isNaN x || isInf x then nanResult draw .cos x 0
  else if isZero x then one
  else unitAnswer draw .cos x 0 (Config.cosFn x)

/-- A positive pattern with the sign of `y`. -/
def withSignOf (y a : F64) : F64 := pack (signBit y) (magBits a)

/-- π/2, π/4 and 3π/4 as binary64 (40_numerics.md R112; the digits: 95_test_vectors.md V-F6, V-F16,
V-F12). Log entry 3. -/
def halfPi : F64 := 0x3FF921FB54442D18
def quarterPi : F64 := 0x3FE921FB54442D18
def threeQuarterPi : F64 := 0x4002D97C7F3321D2

/-- `ATAN2(y, x)` (40_numerics.md R112). -/
def unitAtan2 (draw : Nat) (y x : F64) : F64 :=
  if isNaN y || isNaN x then nanResult draw .atan2 y x
  else if isZero y then withSignOf y (if signBit x then piConst else posZero)
  else if isInf y then
    withSignOf y (if isInf x then (if signBit x then threeQuarterPi else quarterPi) else halfPi)
  else if isZero x then withSignOf y halfPi
  else if isInf x then withSignOf y (if signBit x then piConst else posZero)
  else unitAnswer draw .atan2 y x (Config.atan2Fn y x)

/-- The least binary64 `y` for which 10^y is at least half way from the largest finite to 2^1024, so
that it rounds to an infinity. Log entry 19. -/
def powOverflowFrom : F64 := 0x40734413509F79FF

/-- The least binary64 `y` for which 10^y rounds to a normal number. Log entry 19. -/
def powNormalFrom : F64 := 0xC0733A7146F72A41

/-- The least binary64 `y` for which 10^y rounds above zero, being more than 2^-1075. Log entry 19. -/
def powNonZeroFrom : F64 := 0xC07439B746E36B52

/-- A positive normal number. -/
def isPosNormal (a : F64) : Bool := !signBit a && isFinite a && decide (2 ^ 52 ≤ magBits a)

/-- A positive subnormal number. -/
def isPosSubnormal (a : F64) : Bool := !signBit a && !isZero a && decide (magBits a < 2 ^ 52)

/-- `POW(10.0, y)` for a finite non-zero `y` (40_numerics.md R113): overflow to `+∞` and underflow
through the subnormals to `+0` as the real value demands; within that, the parameter of Config. -/
def powTen (y : F64) : F64 :=
  if !fgt powOverflowFrom y then posInf
  else if !fgt powNormalFrom y then limitTo isPosNormal one (Config.powFn ten y)
  else if !fgt powNonZeroFrom y then limitTo isPosSubnormal minSubnormal (Config.powFn ten y)
  else posZero

/-- `POW(b, y)` (40_numerics.md R113): the stated values are for `b = 10.0`, the only base the block
uses. Log entries 3 and 19. -/
def unitPow (draw : Nat) (b y : F64) : F64 :=
  if isNaN b || isNaN y then nanResult draw .pow b y
  else if b == ten && isZero y then one
  else if b == ten && isInf y then (if signBit y then posZero else posInf)
  else if b == ten then powTen y
  else unitAnswer draw .pow b y (Config.powFn b y)

/-- An operand with its NaN pattern forgotten, so that no result depends on it (40_numerics.md R105). -/
def forgetNaN (a : F64) : F64 := if isNaN a then someNaN else a

/-- `BW2Q(bw, f0, fs)` (42_biquad_designer.md R177): the parameter the model is given. Log entry 4. -/
def unitBw2q (draw : Nat) (bw f0 fs : F64) : F64 :=
  unitAnswer draw .bw2q bw f0 (Config.bw2qFn (forgetNaN bw) (forgetNaN f0) (forgetNaN fs))

end Sys2Proof.Machine
end

