-- ==== Sys2Proof/Machine/Tables.lean ====
section
/-! DEFINITION. The integer laws and the tables of the FFTEngine: bit reversal, the power-of-two test,
the bit-reversal table and the twiddle-factor ROM (40_numerics.md R120 to R122, 41_fft.md R130 to
R134). -/

namespace Sys2Proof.Machine

/-- `popcount` of the `k` low bits of a number (00_scope.md R10). -/
def popcount : Nat → Nat → Nat
  | 0, _     => 0
  | k + 1, n => n % 2 + popcount k (n / 2)

/-- `ispow2(n)` for a 24-bit number: exactly one bit is set (40_numerics.md R122). -/
def isPow2 (n : Nat) : Bool := popcount 24 n == 1

/-- `log2(n)` of a power of two: the place of its one bit (40_numerics.md R122). -/
def log2 (n : Nat) : Nat := Nat.log2 n

/-- `bitrev(i, n)`: bit 0 of `i` goes to place `n - 1`, and so on (40_numerics.md R121). -/
def bitrev : Nat → Nat → Nat
  | _, 0     => 0
  | i, n + 1 => (i % 2) * 2 ^ n + bitrev (i / 2) n

/-- The contents of `REV` for a length: the bit reversals of its indices, empty where the length is no
power of two (41_fft.md R131, 10_state.md R27). -/
def revTable (n : Nat) : List Nat :=
  if isPow2 n then (List.range n).map fun i => bitrev i (log2 n) else []

/-- One doubling of the construction of 41_fft.md R132: the covered entries, then the same entries plus
`bit = N / (2·limit)`. -/
def revDouble (n : Nat) (covered : List Nat) : List Nat :=
  covered ++ covered.map (· + n / (2 * covered.length))

/-- The table built "by iterative doubling" in `k` doublings (41_fft.md R132). -/
def revByDoubling (n : Nat) : Nat → List Nat
  | 0     => [0]
  | k + 1 => revDouble n (revByDoubling n k)

/-- The angle `−PI / i` of ROM entry `i` (41_fft.md R133). -/
def romAngle (i : Nat) : F64 :=
  fdiv Config.romDraw (fneg Config.romDraw piConst) (i2f i)

/-- ROM entry `TWSIN[i]` (41_fft.md R133). -/
def romSin (i : Nat) : F64 := unitSin Config.romDraw (romAngle i)

/-- ROM entry `TWCOS[i]` (41_fft.md R133). -/
def romCos (i : Nat) : F64 := unitCos Config.romDraw (romAngle i)

/-- The ROM entries of `TWSIN` visible at a length (41_fft.md R133, 10_state.md R28). -/
def sinTable (n : Nat) : List F64 := (List.range n).map romSin

/-- The ROM entries of `TWCOS` visible at a length. -/
def cosTable (n : Nat) : List F64 := (List.range n).map romCos

/-- The ROM entries `(TWSIN[2^k], TWCOS[2^k])` under the reference numerics, k = 0 .. 19 (41_fft.md
R134). They are no rule for another instance of the units: the machine reads its own ROM. -/
def romReference : List (F64 × F64) :=
  [(0xBCA1A62633145C07, 0xBFF0000000000000),
   (0xBFF0000000000000, 0x3C91A62633145C07),
   (0xBFE6A09E667F3BCC, 0x3FE6A09E667F3BCD),
   (0xBFD87DE2A6AEA963, 0x3FED906BCF328D46),
   (0xBFC8F8B83C69A60A, 0x3FEF6297CFF75CB0),
   (0xBFB917A6BC29B42C, 0x3FEFD88DA3D12526),
   (0xBFA91F65F10DD814, 0x3FEFF621E3796D7E),
   (0xBF992155F7A3667E, 0x3FEFFD886084CD0D),
   (0xBF8921D1FCDEC784, 0x3FEFFF62169B92DB),
   (0xBF7921F0FE670071, 0x3FEFFFD8858E8A92),
   (0xBF6921F8BECCA4BA, 0x3FEFFFF621621D02),
   (0xBF5921FAAEE6472D, 0x3FEFFFFD88586EE6),
   (0xBF4921FB2AECB360, 0x3FEFFFFF62161A34),
   (0xBF3921FB49EE4EA6, 0x3FEFFFFFD8858675),
   (0xBF2921FB51AEB57B, 0x3FEFFFFFF621619C),
   (0xBF1921FB539ECF31, 0x3FEFFFFFFD885867),
   (0xBF0921FB541AD59E, 0x3FEFFFFFFF62161A),
   (0xBEF921FB5439D73A, 0x3FEFFFFFFFD88586),
   (0xBEE921FB544197A0, 0x3FEFFFFFFFF62162),
   (0xBED921FB544387BA, 0x3FEFFFFFFFFD8858)]

end Sys2Proof.Machine
end

