-- ==== Sys2Proof/Machine/Network.lean ====
section
/-! DEFINITION. The butterfly network of the FFTEngine and the derivation of the spectrum (41_fft.md
R135 to R139, R142 to R144), as functions of arrays. -/

namespace Sys2Proof.Machine

/-- A complex number: a pair of binary64 values. -/
structure Cplx where
  re : F64
  im : F64
  deriving DecidableEq, Repr

/-- The two arrays `AR`, `AI` the network works on in place (41_fft.md R135). -/
structure Wave where
  re : List F64
  im : List F64
  deriving DecidableEq, Repr

/-- Element `i` of an array. The network's indices are below the length (41_fft.md R139), so the +0
past the end is never read. -/
def elem (xs : List F64) (i : Nat) : F64 := xs.getD i posZero

/-- The pair `(AR[i], AI[i])`. -/
def Wave.at (w : Wave) (i : Nat) : Cplx := { re := elem w.re i, im := elem w.im i }

/-- `AR[i] <- c.re ; AI[i] <- c.im`. -/
def Wave.put (w : Wave) (i : Nat) (c : Cplx) : Wave :=
  { re := w.re.set i c.re, im := w.im.set i c.im }

/-- The four-product complex multiplication `p · x`, unfused (41_fft.md R137, R138). -/
def cmul (draw : Nat) (p x : Cplx) : Cplx :=
  { re := fsub draw (fmul draw p.re x.re) (fmul draw p.im x.im)
    im := fadd draw (fmul draw p.re x.im) (fmul draw p.im x.re) }

/-- Complex sum, component by component. -/
def cadd (draw : Nat) (a b : Cplx) : Cplx :=
  { re := fadd draw a.re b.re, im := fadd draw a.im b.im }

/-- Complex difference, component by component. -/
def csub (draw : Nat) (a b : Cplx) : Cplx :=
  { re := fsub draw a.re b.re, im := fsub draw a.im b.im }

/-- The butterfly on the indices `i` and `i + h` with running phase `p` (41_fft.md R137): the rotated
pair from the old element `o`, then `o` and `i` from the old element `i`. -/
def butterfly (draw h : Nat) (p : Cplx) (i : Nat) (w : Wave) : Wave :=
  let t := cmul draw p (w.at (i + h))
  (w.put (i + h) (csub draw (w.at i) t)).put i (cadd draw (w.at i) t)

/-- The next `k` butterflies of a group, from index `i` in strides of `2h` (41_fft.md R135, R139). -/
def groupWalk (draw h : Nat) (p : Cplx) : Nat → Nat → Wave → Wave
  | 0, _, w     => w
  | k + 1, i, w => groupWalk draw h p k (i + 2 * h) (butterfly draw h p i w)

/-- `advance(pr, pi, sr, si)` (41_fft.md R138): both from the old pair. -/
def advance (draw : Nat) (p s : Cplx) : Cplx :=
  { re := fsub draw (fmul draw p.re s.re) (fmul draw p.im s.im)
    im := fadd draw (fmul draw p.re s.im) (fmul draw p.im s.re) }

/-- The next `k` groups of the stage of half-size `h` in an array of `n`, from group `g` with running
phase `p`: each has `n / (2h)` butterflies, and the phase advances after it (41_fft.md R135). -/
def stageGroups (draw n h : Nat) (s : Cplx) : Nat → Nat → Cplx → Wave → Wave
  | 0, _, _, w     => w
  | k + 1, g, p, w =>
      stageGroups draw n h s k (g + 1) (advance draw p s)
        (groupWalk draw h p (n / (2 * h)) g w)

/-- The running phase at the start of every stage: `(1.0, +0)` (41_fft.md R136). -/
def phaseStart : Cplx := { re := one, im := posZero }

/-- The stage of half-size `h` (41_fft.md R135, R136): the rotation increment is ROM entry `h`. -/
def stage (draw n : Nat) (twcos twsin : List F64) (h : Nat) (w : Wave) : Wave :=
  stageGroups draw n h { re := elem twcos h, im := elem twsin h } h 0 phaseStart w

/-- The next `k` stages, from half-size `h`, doubling it (41_fft.md R135). -/
def stages (draw n : Nat) (twcos twsin : List F64) : Nat → Nat → Wave → Wave
  | 0, _, w     => w
  | k + 1, h, w => stages draw n twcos twsin k (2 * h) (stage draw n twcos twsin h w)

/-- `BUTTERFLIES(AR, AI, N)` (41_fft.md R135): for a power of two `n` the loop `while h < N` from
`h = 1` runs `log2(n)` stages. -/
def butterflies (draw n : Nat) (twcos twsin : List F64) (w : Wave) : Wave :=
  stages draw n twcos twsin (log2 n) 1 w

/-- The bit-reversed load `A[i] <- source[REV[i]]` (41_fft.md R142, R146). -/
def bitReversed (rev : List Nat) (source : List F64) : List F64 :=
  rev.map (elem source)

/-! ### The spectrum (41_fft.md R143, R144) -/

/-- `MAG[i]` from `c`, `RE[i]`, `IM[i]`. -/
def magnitude (draw : Nat) (c re im : F64) : F64 :=
  fmul draw c (fsqrt draw (fadd draw (fmul draw re re) (fmul draw im im)))

/-- `c = 2.0 / N`. -/
def magScale (draw n : Nat) : F64 := fdiv draw two (i2f n)

/-- The magnitudes of bins 0 .. H−1. -/
def magnitudes (draw n : Nat) (w : Wave) : List F64 :=
  (List.range (n / 2)).map fun i => magnitude draw (magScale draw n) (elem w.re i) (elem w.im i)

/-- The phases of bins 0 .. H−1, imaginary part first. -/
def phases (draw n : Nat) (w : Wave) : List F64 :=
  (List.range (n / 2)).map fun i => unitAtan2 draw (elem w.im i) (elem w.re i)

/-- A peak: its bin and its value. -/
structure PeakAt where
  band  : Nat
  value : F64
  deriving DecidableEq, Repr

/-- The scan of 41_fft.md R144 from bin `i` on: only a strictly greater magnitude replaces the peak. -/
def peakScan : List F64 → Nat → PeakAt → PeakAt
  | [], _, best        => best
  | m :: ms, i, best   =>
      peakScan ms (i + 1) (if fgt m best.value then { band := i, value := m } else best)

/-- The peak of a list of magnitudes: the scan starts at `+0` and 0 (41_fft.md R144). -/
def peakOf (mags : List F64) : PeakAt :=
  peakScan mags 0 { band := 0, value := posZero }

/-! ### The inverse (41_fft.md R146, R148) -/

/-- `out[i] = fmul(WR[i], 1.0 / N)`. -/
def scaledReal (draw n : Nat) (w : Wave) : List F64 :=
  w.re.map fun x => fmul draw x (fdiv draw one (i2f n))

end Sys2Proof.Machine
end

