-- ==== Sys2Proof/Machine/Design.lean ====
section
/-! DEFINITION. The BiquadFilterDesigner's recompute as a function of its five parameters
(42_biquad_designer.md R179 to R190). -/

namespace Sys2Proof.Machine

/-- The five designer parameters (10_state.md R33 to R37). -/
structure BqParams where
  type : BitVec 4
  fs   : F64
  f0   : F64
  q    : F64
  gain : F64
  deriving DecidableEq, Repr

/-- The six coefficients in D0's tuple order (10_state.md R38, R40). -/
structure Coeffs where
  a0 : F64
  b0 : F64
  b1 : F64
  b2 : F64
  a1 : F64
  a2 : F64
  deriving DecidableEq, Repr

/-- The intermediates of 42_biquad_designer.md R179 that the coefficient sets use. -/
structure Intermediates where
  amp   : F64
  cosw0 : F64
  sinw0 : F64
  alpha : F64
  shelf : F64
  deriving DecidableEq, Repr

/-- `A = POW(10.0, gain / 40)` (42_biquad_designer.md R179). -/
def designAmp (draw : Nat) (p : BqParams) : F64 :=
  unitPow draw ten (fdiv draw p.gain forty)

/-- `w0 = (TWO_PI · f0) / fs` (42_biquad_designer.md R179). -/
def designW0 (draw : Nat) (p : BqParams) : F64 :=
  fdiv draw (fmul draw twoPi p.f0) p.fs

/-- `alpha = sinw0 / (2 · Q)` (42_biquad_designer.md R179). -/
def designAlpha (draw : Nat) (p : BqParams) : F64 :=
  fdiv draw (unitSin draw (designW0 draw p)) (fmul draw two p.q)

/-- The intermediates of a parameter set (42_biquad_designer.md R179). -/
def intermediates (draw : Nat) (p : BqParams) : Intermediates :=
  { amp   := designAmp draw p
    cosw0 := unitCos draw (designW0 draw p)
    sinw0 := unitSin draw (designW0 draw p)
    alpha := designAlpha draw p
    shelf := fmul draw (fmul draw two (fsqrt draw (designAmp draw p))) (designAlpha draw p) }

/-- `−2 cos w0` as `fneg(fmul(2.0, c))`, the `A1` of types 0 to 6. -/
def negTwoCos (draw : Nat) (m : Intermediates) : F64 := fneg draw (fmul draw two m.cosw0)

/-- Type 0, lowpass (42_biquad_designer.md R181). -/
def lowpassSet (draw : Nat) (m : Intermediates) : Coeffs :=
  { a0 := fadd draw one m.alpha
    a1 := negTwoCos draw m
    a2 := fsub draw one m.alpha
    b0 := fdiv draw (fsub draw one m.cosw0) two
    b1 := fsub draw one m.cosw0
    b2 := fdiv draw (fsub draw one m.cosw0) two }

/-- Type 1, highpass (42_biquad_designer.md R182). -/
def highpassSet (draw : Nat) (m : Intermediates) : Coeffs :=
  { a0 := fadd draw one m.alpha
    a1 := negTwoCos draw m
    a2 := fsub draw one m.alpha
    b0 := fdiv draw (fadd draw one m.cosw0) two
    b1 := fneg draw (fadd draw one m.cosw0)
    b2 := fdiv draw (fadd draw one m.cosw0) two }

/-- Type 2, bandpass with constant skirt gain (42_biquad_designer.md R183). -/
def bandpassSet (draw : Nat) (m : Intermediates) : Coeffs :=
  { a0 := fadd draw one m.alpha
    a1 := negTwoCos draw m
    a2 := fsub draw one m.alpha
    b0 := fdiv draw m.sinw0 two
    b1 := posZero
    b2 := fneg draw (fdiv draw m.sinw0 two) }

/-- Type 3, bandpass with constant 0 dB peak gain (42_biquad_designer.md R184). -/
def resonantSet (draw : Nat) (m : Intermediates) : Coeffs :=
  { a0 := fadd draw one m.alpha
    a1 := negTwoCos draw m
    a2 := fsub draw one m.alpha
    b0 := m.alpha
    b1 := posZero
    b2 := fneg draw m.alpha }

/-- Type 4, notch (42_biquad_designer.md R185). -/
def notchSet (draw : Nat) (m : Intermediates) : Coeffs :=
  { a0 := fadd draw one m.alpha
    a1 := negTwoCos draw m
    a2 := fsub draw one m.alpha
    b0 := one
    b1 := negTwoCos draw m
    b2 := one }

/-- Type 5, allpass (42_biquad_designer.md R186). -/
def allpassSet (draw : Nat) (m : Intermediates) : Coeffs :=
  { a0 := fadd draw one m.alpha
    a1 := negTwoCos draw m
    a2 := fsub draw one m.alpha
    b0 := fsub draw one m.alpha
    b1 := negTwoCos draw m
    b2 := fadd draw one m.alpha }

/-- Type 6, peakingEQ (42_biquad_designer.md R187). -/
def peakingSet (draw : Nat) (m : Intermediates) : Coeffs :=
  { a0 := fadd draw one (fdiv draw m.alpha m.amp)
    a1 := negTwoCos draw m
    a2 := fsub draw one (fdiv draw m.alpha m.amp)
    b0 := fadd draw one (fmul draw m.alpha m.amp)
    b1 := negTwoCos draw m
    b2 := fsub draw one (fmul draw m.alpha m.amp) }

/-- Type 7, lowShelf (42_biquad_designer.md R188). -/
def lowShelfSet (draw : Nat) (m : Intermediates) : Coeffs :=
  let ap := fadd draw m.amp one
  let am := fsub draw m.amp one
  { a0 := fadd draw (fadd draw ap (fmul draw am m.cosw0)) m.shelf
    a1 := fneg draw (fmul draw two (fadd draw am (fmul draw ap m.cosw0)))
    a2 := fsub draw (fadd draw ap (fmul draw am m.cosw0)) m.shelf
    b0 := fmul draw m.amp (fadd draw (fsub draw ap (fmul draw am m.cosw0)) m.shelf)
    b1 := fmul draw (fmul draw two m.amp) (fsub draw am (fmul draw ap m.cosw0))
    b2 := fmul draw m.amp (fsub draw (fsub draw ap (fmul draw am m.cosw0)) m.shelf) }

/-- Type 8, highShelf (42_biquad_designer.md R189). -/
def highShelfSet (draw : Nat) (m : Intermediates) : Coeffs :=
  let ap := fadd draw m.amp one
  let am := fsub draw m.amp one
  { a0 := fadd draw (fsub draw ap (fmul draw am m.cosw0)) m.shelf
    a1 := fmul draw two (fsub draw am (fmul draw ap m.cosw0))
    a2 := fsub draw (fsub draw ap (fmul draw am m.cosw0)) m.shelf
    b0 := fmul draw m.amp (fadd draw (fadd draw ap (fmul draw am m.cosw0)) m.shelf)
    b1 := fneg draw (fmul draw (fmul draw two m.amp) (fadd draw am (fmul draw ap m.cosw0)))
    b2 := fmul draw m.amp (fsub draw (fadd draw ap (fmul draw am m.cosw0)) m.shelf) }

/-- Types 9 to 15, pass-through (42_biquad_designer.md R190). -/
def passThroughSet : Coeffs :=
  { a0 := one, a1 := posZero, a2 := posZero, b0 := one, b1 := posZero, b2 := posZero }

/-- The coefficient set of a type code (42_biquad_designer.md R180, 30_encoding.md R82). -/
def coeffSet (draw : Nat) (type : BitVec 4) (m : Intermediates) : Coeffs :=
  match type.toNat with
  | 0 => lowpassSet draw m
  | 1 => highpassSet draw m
  | 2 => bandpassSet draw m
  | 3 => resonantSet draw m
  | 4 => notchSet draw m
  | 5 => allpassSet draw m
  | 6 => peakingSet draw m
  | 7 => lowShelfSet draw m
  | 8 => highShelfSet draw m
  | _ => passThroughSet

/-- `RECOMPUTE()` as a function of the parameters (42_biquad_designer.md R180, R192). -/
def design (draw : Nat) (p : BqParams) : Coeffs :=
  coeffSet draw p.type (intermediates draw p)

/-- The parameters after reset: lowpass, 60.0, 15.0, 1.0, +0 (10_state.md R42). -/
def resetParams : BqParams :=
  { type := 0, fs := sixty, f0 := fifteen, q := one, gain := posZero }

end Sys2Proof.Machine
end

