-- ==== Sys2Proof/Machine/State.lean ====
section
/-! DEFINITION. The state of DSPCORE (10_state.md R20) with the host's side of the command port, the
reasons a step can stop, and the state after reset (10_state.md R42). -/

namespace Sys2Proof.Machine

/-- Why the model stops with a fault. The statuses of 60_exceptions.md R231 are not among these: a
command that ends with one answers it in a next state. -/
inductive Fault where
  /-- An element that does not exist was to be read (20_memory.md R52). Raised by `FFT.FWD` and
  `FFT.INV` where the arrays do not have their logical lengths, and by `RD` where an array is
  shorter than its logical length; no reachable state is such (41_fft.md R139, `Safety`). Safe. -/
  | noSuchElement
  deriving DecidableEq, Repr

/-- Why the model gives an instruction no meaning. -/
inductive Refusal where
  /-- An arm of `exec` whose instruction has no meaning yet; no arm is such. Safe. -/
  | notModelled (mnemonic : String)
  deriving DecidableEq, Repr

/-- The FFTEngine's scalars (10_state.md R24, R25, R26, R32). -/
structure FftRegs where
  n        : BitVec 24
  fs       : F64
  err      : BitVec 8
  peak     : F64
  peakBand : BitVec 24
  deriving DecidableEq, Repr

/-- The FFTEngine's arrays, each a space of its own (10_state.md R27 to R31, 20_memory.md R50, R51). -/
structure Memory where
  re    : List F64
  im    : List F64
  mag   : List F64
  phase : List F64
  rev   : List Nat
  twsin : List F64
  twcos : List F64
  deriving DecidableEq, Repr

/-- The filter memory (10_state.md R39, 43_biquad_processor.md R200). -/
structure History where
  x1 : F64
  x2 : F64
  y1 : F64
  y2 : F64
  deriving DecidableEq, Repr

/-- The state: the block's own (10_state.md R20), then the host's side of the command port and the
counter of free values, which are the model's (log entries 2 and 6). -/
structure State where
  fft       : FftRegs
  mem       : Memory
  par       : BqParams
  coef      : Coeffs
  hist      : History
  inbox     : List HostInput
  responses : List Response
  draws     : Nat
  deriving DecidableEq, Repr

/-- The FFTEngine's scalars after reset (10_state.md R42). -/
def FftRegs.reset : FftRegs :=
  { n := 0, fs := posZero, err := 0, peak := posZero, peakBand := 0 }

/-- The arrays after reset: length 0 (10_state.md R42). -/
def Memory.reset : Memory :=
  { re := [], im := [], mag := [], phase := [], rev := [], twsin := [], twcos := [] }

/-- The filter memory after reset and after `BQ.CLEAR`: `+0` each (10_state.md R42). -/
def History.zero : History :=
  { x1 := posZero, x2 := posZero, y1 := posZero, y2 := posZero }

/-- The state after reset (10_state.md R42): the coefficients are the recompute of the reset
parameters (R38). Nothing has been sent, nothing answered (log entries 2 and 6). -/
def State.reset : State :=
  { fft       := FftRegs.reset
    mem       := Memory.reset
    par       := resetParams
    coef      := design Config.romDraw resetParams
    hist      := History.zero
    inbox     := []
    responses := []
    draws     := 1 }

end Sys2Proof.Machine
end

