-- ==== Sys2Proof/Machine/Ops.lean ====
section
/-! DEFINITION. The named operations over the state: responses, taking an exception and recovering from
one, element and register reads, the writes of the command rules, and the host's inputs. -/

namespace Sys2Proof.Machine

/-- The three outcomes of a step (Host.Core). -/
abbrev Outcome := Host.Outcome State Fault Refusal

/-! ### Responses and exceptions -/

/-- The response packet is returned to the host (30_encoding.md R73, 20_memory.md R59). -/
def State.respond (s : State) (status : Status) (words : List (BitVec 64)) : State :=
  { s with responses := s.responses ++ [{ status := status, words := words }] }

/-- `respond(0, words)`: the command completes (00_scope.md R10, 60_exceptions.md R231). -/
def answer (words : List (BitVec 64)) (s : State) : Outcome :=
  .next (s.respond .ok words)

/-- The two structural faults are latched in `FFT_ERR` (60_exceptions.md R231, R236). -/
def latchedStatus : Status → Bool
  | .ok       => false
  | .notPow2  => true
  | .length   => true
  | .illegal  => false
  | .index    => false
  | .fftFault => false
  | .capacity => false

/-- `FFT_ERR <- code` where the code is latched (60_exceptions.md R236 (1)). -/
def State.latch (s : State) (e : Status) : State :=
  if latchedStatus e then { s with fft := { s.fft with err := e.code } } else s

/-- `raise(code)`, taking an exception (60_exceptions.md R236): latch codes 1 and 2, respond
`(code, [])`, write nothing else; the block vectors nowhere. -/
def raise (e : Status) (s : State) : Outcome :=
  .next ((s.latch e).respond e [])

/-! ### The arrays (20_memory.md R51, R52) -/

/-- The current transform length as a number (10_state.md R24). -/
def State.len (s : State) : Nat := s.fft.n.toNat

/-- The logical length of `REV` (10_state.md R27). -/
def revLen (n : Nat) : Nat := if isPow2 n then n else 0

/-- The logical length of a space other than 15 (44_access.md R221). -/
def spaceLen (space : BitVec 4) (n : Nat) : Nat :=
  match space.toNat with
  | 0 => n
  | 1 => n
  | 2 => n / 2
  | 3 => n / 2
  | 4 => revLen n
  | 5 => n
  | 6 => n
  | _ => 0

/-- `MemRead(space, i)`; none where the element does not exist (20_memory.md R52). `REV` entries are
zero-extended to 64 bits (44_access.md R221). -/
def Memory.read (m : Memory) (space : BitVec 4) (i : Nat) : Option (BitVec 64) :=
  match space.toNat with
  | 0 => m.re[i]?
  | 1 => m.im[i]?
  | 2 => m.mag[i]?
  | 3 => m.phase[i]?
  | 4 => (m.rev[i]?).map (BitVec.ofNat 64)
  | 5 => m.twsin[i]?
  | 6 => m.twcos[i]?
  | _ => none

/-- The canonical form of the arrays at a transform length: each has its logical length (20_memory.md
R51), and every `REV` entry is an index (10_state.md R27). -/
def Memory.wf (m : Memory) (n : Nat) : Bool :=
  m.re.length == n && m.im.length == n && m.mag.length == n / 2 && m.phase.length == n / 2
    && m.rev.length == revLen n && m.rev.all (· < n)
    && m.twsin.length == n && m.twcos.length == n

/-- The arrays `FFT.CFG` leaves (41_fft.md R140): zero-filled frame, the tables of the length. -/
def Memory.configured (n : Nat) : Memory :=
  { re    := List.replicate n posZero
    im    := List.replicate n posZero
    mag   := List.replicate (n / 2) posZero
    phase := List.replicate (n / 2) posZero
    rev   := revTable n
    twsin := sinTable n
    twcos := cosTable n }

/-- The scalars `FFT.CFG` leaves (41_fft.md R140). -/
def FftRegs.configured (n : BitVec 24) (fs : F64) : FftRegs :=
  { n := n, fs := fs, err := 0, peak := posZero, peakBand := 0 }

/-- The construction of the engine, which is also the recovery from a latched fault (41_fft.md R140,
60_exceptions.md R241). -/
def State.configure (s : State) (n : BitVec 24) (fs : F64) : State :=
  { s with fft := FftRegs.configured n fs, mem := Memory.configured n.toNat }

/-! ### The register map (10_state.md R40) -/

/-- A scalar by register number, integers zero-extended to 64 bits; none where the number is not
assigned. -/
def State.csr (s : State) (num : Nat) : Option (BitVec 64) :=
  match num with
  | 0x00 => some (s.fft.n.setWidth 64)
  | 0x01 => some s.fft.fs
  | 0x02 => some (s.fft.err.setWidth 64)
  | 0x03 => some s.fft.peak
  | 0x04 => some (s.fft.peakBand.setWidth 64)
  | 0x10 => some (s.par.type.setWidth 64)
  | 0x11 => some s.par.fs
  | 0x12 => some s.par.f0
  | 0x13 => some s.par.q
  | 0x14 => some s.par.gain
  | 0x18 => some s.coef.a0
  | 0x19 => some s.coef.b0
  | 0x1A => some s.coef.b1
  | 0x1B => some s.coef.b2
  | 0x1C => some s.coef.a1
  | 0x1D => some s.coef.a2
  | 0x20 => some s.hist.x1
  | 0x21 => some s.hist.x2
  | 0x22 => some s.hist.y1
  | 0x23 => some s.hist.y2
  | _    => none

/-! ### Free values and the recompute -/

/-- The counter of free values passes `k` draws (log entry 2). -/
def State.drawn (s : State) (k : Nat) : State := { s with draws := s.draws + k }

/-- `RECOMPUTE()` on the current parameters (42_biquad_designer.md R180). -/
def State.recompute (s : State) : State :=
  { s with coef := design s.draws s.par, draws := s.draws + 1 }

/-- "store the parameter and trigger `recompute()`" (42_biquad_designer.md R170). -/
def State.withParams (s : State) (p : BqParams) : State :=
  State.recompute { s with par := p }

/-! ### The host's inputs (20_memory.md R59) -/

/-- The next input of the host and the state without it; none where the host has sent nothing. -/
def State.nextInput (s : State) : Option (HostInput × State) :=
  match s.inbox with
  | []        => none
  | x :: rest => some (x, { s with inbox := rest })

/-- Reset applied by the host (70_reset_and_hazards.md R260, R262): the block's state is the reset
state whatever was executing, and no response is produced. What the host has still to send, what it
has been answered, and the counter of free values are not the block's and stay (log entry 8). -/
def State.hostReset (s : State) : State :=
  { State.reset with inbox := s.inbox, responses := s.responses, draws := s.draws }

/-- An idle block keeps all state (70_reset_and_hazards.md R270). -/
def State.idle (s : State) : State := s

/-- The state in which the host's next input is a packet. -/
def State.withNextPacket (s : State) (p : Packet) : State :=
  { s with inbox := .packet p :: s.inbox }

end Sys2Proof.Machine
end

