-- ==== Sys2Proof/Machine/Access.lean ====
section
/-! DEFINITION. The read command `RD` (44_access.md R220 to R223). -/

namespace Sys2Proof.Machine

/-- `RD` of an array space (44_access.md R221, R222). -/
def readSpace (space : BitVec 4) (i : Nat) (s : State) : Outcome :=
  if spaceLen space s.len ≤ i then raise .index s
  else
    match s.mem.read space i with
    | some v => answer [v] s
    | none   => .fault .noSuchElement

/-- `RD` of a register number (44_access.md R221, R222). -/
def readCsr (num : Nat) (s : State) : Outcome :=
  match s.csr num with
  | some v => answer [v] s
  | none   => raise .index s

/-- `RD SPACE, IDX` (44_access.md R221): legal in every state, no side effect. -/
def execRd (space : BitVec 4) (idx : BitVec 20) (s : State) : Outcome :=
  if space = 15 then readCsr idx.toNat s else readSpace space idx.toNat s

end Sys2Proof.Machine
end

