-- ==== Sys2Proof/Machine/Operands.lean ====
section
/-! DEFINITION. The operand forms that are more than a field or a word: the present mask of `BQ.SET`
(42_biquad_designer.md R171, R172) and the source arrays of `FFT.INV` (41_fft.md R146). -/

namespace Sys2Proof.Machine

/-- The operands of `BQ.SET`, each present or absent (42_biquad_designer.md R172). -/
structure SetArgs where
  type : Option (BitVec 4)
  f0   : Option F64
  q    : Option F64
  gain : Option F64
  deriving DecidableEq, Repr

/-- The next operand word where its present bit is set, and the words after it; none where the bit is
set and no word is left. -/
def takePresent (present : Bool) (ops : List F64) : Option (Option F64 × List F64) :=
  match present, ops with
  | false, ops     => some (none, ops)
  | true, x :: ops => some (some x, ops)
  | true, []       => none

/-- The operands of `BQ.SET TYPE, PM ; ops`, in the order f0, Q, gainDb (42_biquad_designer.md R171);
none where 30_encoding.md R85 (c) or (d) holds. -/
def setArgs (type pm : BitVec 4) (ops : List F64) : Option SetArgs :=
  if typeFieldOk type pm = false then none
  else
    match takePresent pm[1] ops with
    | none => none
    | some (f0, ops) =>
      match takePresent pm[2] ops with
      | none => none
      | some (q, ops) =>
        match takePresent pm[3] ops with
        | none => none
        | some (gain, ops) =>
          if ops = [] then
            some { type := if pm[0] then some type else none, f0 := f0, q := q, gain := gain }
          else none

/-- The parameters after `BQ.SET`: a present operand is stored, zero included, an absent one takes its
default; the default `f0` is the current `BQ_FS / 4` (42_biquad_designer.md R171, R172). -/
def setParams (draw : Nat) (p : BqParams) (a : SetArgs) : BqParams :=
  { type := a.type.getD 0
    fs   := p.fs
    f0   := a.f0.getD (fdiv draw p.fs four)
    q    := a.q.getD one
    gain := a.gain.getD posZero }

/-- How many source arrays an `FFT.INV` packet supplies: `popcount(SRC)`. -/
def srcCount (src : BitVec 2) : Nat := popcount 2 src.toNat

/-- The `real` array: the first N operand words, or the engine's own `RE` (41_fft.md R146). -/
def invReal (src : BitVec 2) (ops : List F64) (n : Nat) (m : Memory) : List F64 :=
  if src[0] then ops.take n else m.re

/-- The `imag` array: the N operand words after the `real` array, or the engine's own `IM`
(41_fft.md R146). -/
def invImag (src : BitVec 2) (ops : List F64) (n : Nat) (m : Memory) : List F64 :=
  if src[1] then (ops.drop (if src[0] then n else 0)).take n else m.im

end Sys2Proof.Machine
end

