-- ==== Sys2Proof/Machine/Designer.lean ====
section
/-! DEFINITION. The commands of the BiquadFilterDesigner (42_biquad_designer.md R170 to R191). -/

namespace Sys2Proof.Machine

/-- `BQ.SET TYPE, PM ; [f0] [Q] [gainDb]` (42_biquad_designer.md R171). A term that is no packet's
decoding (30_encoding.md R85 (c), (d)) is answered as the illegal packet it encodes to. -/
def execBqSet (type pm : BitVec 4) (ops : List F64) (s : State) : Outcome :=
  match setArgs type pm ops with
  | none   => raise .illegal s
  | some a => answer [] (s.withParams (setParams s.draws s.par a))

/-- `BQ.SETTYPE TYPE` (42_biquad_designer.md R173). -/
def execBqSetType (type : BitVec 4) (s : State) : Outcome :=
  answer [] (s.withParams { s.par with type := type })

/-- `BQ.SETFREQ ; f0` (42_biquad_designer.md R174). -/
def execBqSetFreq (f0 : F64) (s : State) : Outcome :=
  answer [] (s.withParams { s.par with f0 := f0 })

/-- `BQ.SETQ ; Q` (42_biquad_designer.md R175). -/
def execBqSetQ (q : F64) (s : State) : Outcome :=
  answer [] (s.withParams { s.par with q := q })

/-- `BQ.SETGAIN ; gainDb` (42_biquad_designer.md R176). -/
def execBqSetGain (gain : F64) (s : State) : Outcome :=
  answer [] (s.withParams { s.par with gain := gain })

/-- `BQ.SETBW ; bw` (42_biquad_designer.md R177): `BQ_Q <- BW2Q(bw, BQ_F0, BQ_FS)`, with `BW2Q` the
parameter the model is given (log entry 4). -/
def execBqSetBw (bw : F64) (s : State) : Outcome :=
  answer [] (s.withParams { s.par with q := unitBw2q s.draws bw s.par.f0 s.par.fs })

/-- `BQ.SETFS ; fs` (42_biquad_designer.md R178): `BQ_F0` is kept. -/
def execBqSetFs (fs : F64) (s : State) : Outcome :=
  answer [] (s.withParams { s.par with fs := fs })

/-- `BQ.RECOMPUTE` (42_biquad_designer.md R180). -/
def execBqRecompute (s : State) : Outcome :=
  answer [] s.recompute

/-- `BQ.COEFFS ; a0, b0, b1, b2, a1, a2` (42_biquad_designer.md R191): bit for bit, no recompute. -/
def execBqCoeffs (a0 b0 b1 b2 a1 a2 : F64) (s : State) : Outcome :=
  answer [] { s with coef := { a0 := a0, b0 := b0, b1 := b1, b2 := b2, a1 := a1, a2 := a2 } }

end Sys2Proof.Machine
end

