-- ==== Sys2Proof/Machine/Flags.lean ====
section
/-! DEFINITION. DSPCORE has no arithmetic flags and no condition codes (10_state.md R23). Its one
flag-like state is the fault latch `FFT_ERR`; here are its test and the checks of a transform, in the
priority of 60_exceptions.md R239. -/

namespace Sys2Proof.Machine

/-- `FFT_ERR ≠ 0` (60_exceptions.md R238). -/
def State.faulted (s : State) : Bool := s.fft.err != 0

/-- The fault of a transform whose packet has `k` operand words and should have `want`: a latched
fault, then a length that is no power of two, then the operand count (60_exceptions.md R232, R233,
R238, R239); none where every check passes. -/
def transformFault (s : State) (k want : Nat) : Option Status :=
  if s.faulted then some .fftFault
  else if !isPow2 s.len then some .notPow2
  else if k ≠ want then some .length
  else none

end Sys2Proof.Machine
end

