-- ==== Sys2Proof/Machine/Fft.lean ====
section
/-! DEFINITION. The commands of the FFTEngine: `FFT.CFG`, `FFT.FWD`, `FFT.INV`, `FFT.BANDF` (41_fft.md
R140 to R150). -/

namespace Sys2Proof.Machine

/-- `FFT.CFG N ; fs` (41_fft.md R140): not refused while a fault is latched, no power-of-two check. -/
def execFftCfg (n : BitVec 24) (fs : F64) (s : State) : Outcome :=
  if Config.nMax < n.toNat then raise .capacity s else answer [] (s.configure n fs)

/-- The arrays `RE`, `IM` after the load and the network of `FFT.FWD` (41_fft.md R141, R142). -/
def forwardWave (buffer : List F64) (s : State) : Wave :=
  butterflies s.draws s.len s.mem.twcos s.mem.twsin
    { re := bitReversed s.mem.rev buffer, im := List.replicate s.len posZero }

/-- `SPECTRUM()` of a wave into `MAG`, `PHASE`, `PEAK`, `PEAKBAND`, with the wave in `RE`, `IM`
(41_fft.md R143, R144). -/
def State.withSpectrum (s : State) (w : Wave) : State :=
  let mags := magnitudes s.draws s.len w
  { s with
    fft := { s.fft with
      peak     := (peakOf mags).value
      peakBand := BitVec.ofNat 24 (peakOf mags).band }
    mem := { s.mem with
      re := w.re, im := w.im, mag := mags, phase := phases s.draws s.len w } }

/-- What a successful `FFT.FWD` writes (41_fft.md R141). -/
def State.forward (s : State) (buffer : List F64) : State :=
  (s.withSpectrum (forwardWave buffer s)).drawn 1

/-- `FFT.FWD ; [buffer]` (41_fft.md R141). -/
def execFftFwd (buffer : List F64) (s : State) : Outcome :=
  match transformFault s buffer.length s.len with
  | some e => raise e s
  | none   =>
    if s.mem.wf s.len then answer [] (s.forward buffer) else .fault .noSuchElement

/-- The scratch arrays `WR`, `WI` of `FFT.INV` after the conjugated bit-reversed load and the network
(41_fft.md R146). -/
def inverseWave (src : BitVec 2) (ops : List F64) (s : State) : Wave :=
  butterflies s.draws s.len s.mem.twcos s.mem.twsin
    { re := bitReversed s.mem.rev (invReal src ops s.len s.mem)
      im := (bitReversed s.mem.rev (invImag src ops s.len s.mem)).map (fneg s.draws) }

/-- The time-domain buffer `FFT.INV` answers (41_fft.md R146, R148). -/
def inverseOut (src : BitVec 2) (ops : List F64) (s : State) : List F64 :=
  scaledReal s.draws s.len (inverseWave src ops s)

/-- `FFT.INV SRC ; [real] [imag]` (41_fft.md R146, R147): no architectural state is written. -/
def execFftInv (src : BitVec 2) (ops : List F64) (s : State) : Outcome :=
  match transformFault s ops.length (s.len * srcCount src) with
  | some e => raise e s
  | none   =>
    if s.mem.wf s.len then answer (inverseOut src ops s) (s.drawn 1) else .fault .noSuchElement

/-- `bw`, the bandwidth of a bin (41_fft.md R150). -/
def bandWidth (draw n : Nat) (fs : F64) : F64 :=
  fmul draw (fdiv draw two (i2f n)) (fdiv draw fs two)

/-- The frequency `FFT.BANDF` answers for a bin index (41_fft.md R150). -/
def bandFrequency (draw n : Nat) (fs : F64) (idx : Nat) : F64 :=
  fadd draw (fmul draw (bandWidth draw n fs) (i2f idx)) (fdiv draw (bandWidth draw n fs) two)

/-- `FFT.BANDF IDX` (41_fft.md R150): refused while a fault is latched, no range check. -/
def execFftBandf (idx : BitVec 24) (s : State) : Outcome :=
  if s.faulted then raise .fftFault s
  else answer [bandFrequency s.draws s.len s.fft.fs idx.toNat] (s.drawn 1)

end Sys2Proof.Machine
end

