-- ==== Sys2Proof/Machine/Processor.lean ====
section
/-! DEFINITION. The commands of the BiquadProcessor (43_biquad_processor.md R200 to R204). -/

namespace Sys2Proof.Machine

/-- The output `y` of `TICK1(x)` (43_biquad_processor.md R201): five quotients by `A0`, five products,
combined left to right with two sums and two differences. -/
def tickOutput (draw : Nat) (c : Coeffs) (h : History) (x : F64) : F64 :=
  let n0 := fdiv draw c.b0 c.a0
  let n1 := fdiv draw c.b1 c.a0
  let n2 := fdiv draw c.b2 c.a0
  let d1 := fdiv draw c.a1 c.a0
  let d2 := fdiv draw c.a2 c.a0
  fsub draw
    (fsub draw
      (fadd draw (fadd draw (fmul draw n0 x) (fmul draw n1 h.x1)) (fmul draw n2 h.x2))
      (fmul draw d1 h.y1))
    (fmul draw d2 h.y2)

/-- The shift of the history by an input and its output (43_biquad_processor.md R201): the right sides
are the values before it. -/
def History.shift (h : History) (x y : F64) : History :=
  { x1 := x, x2 := h.x1, y1 := y, y2 := h.y1 }

/-- The history after `TICK1(x)`. -/
def tickHistory (draw : Nat) (c : Coeffs) (h : History) (x : F64) : History :=
  h.shift x (tickOutput draw c h x)

/-- The outputs of `TICK1` over a buffer in ascending order, sample `j` with draw `draw + j`
(43_biquad_processor.md R203). -/
def tickOutputs (draw : Nat) (c : Coeffs) : History → List F64 → List F64
  | _, []      => []
  | h, x :: xs => tickOutput draw c h x :: tickOutputs (draw + 1) c (tickHistory draw c h x) xs

/-- The history after `TICK1` over a buffer (43_biquad_processor.md R203). -/
def tickHistories (draw : Nat) (c : Coeffs) : History → List F64 → History
  | h, []      => h
  | h, x :: xs => tickHistories (draw + 1) c (tickHistory draw c h x) xs

/-- The state after one `TICK1(x)`. -/
def State.ticked (s : State) (x : F64) : State :=
  State.drawn { s with hist := tickHistory s.draws s.coef s.hist x } 1

/-- The state after `TICK1` over a buffer. -/
def State.processed (s : State) (buffer : List F64) : State :=
  State.drawn { s with hist := tickHistories s.draws s.coef s.hist buffer } buffer.length

/-- `BQ.TICK ; x` (43_biquad_processor.md R202). -/
def execBqTick (x : F64) (s : State) : Outcome :=
  answer [tickOutput s.draws s.coef s.hist x] (s.ticked x)

/-- `BQ.PROCESS ; buffer` (43_biquad_processor.md R203). -/
def execBqProcess (buffer : List F64) (s : State) : Outcome :=
  answer (tickOutputs s.draws s.coef s.hist buffer) (s.processed buffer)

/-- `BQ.CLEAR` (43_biquad_processor.md R204): the filter memory only. -/
def execBqClear (s : State) : Outcome :=
  answer [] { s with hist := History.zero }

end Sys2Proof.Machine
end

