-- ==== Sys2Proof/Machine/Dispatch.lean ====
section
/-! DEFINITION. Dispatch: one arm per command, each one call of its meaning. -/

namespace Sys2Proof.Machine

def exec (i : Instr) (s : State) : Host.Outcome State Fault Refusal :=
  match i with
  | .rd space idx => Sys2Proof.Machine.execRd space idx s
  | .fftCfg n fs => Sys2Proof.Machine.execFftCfg n fs s
  | .fftFwd buffer => Sys2Proof.Machine.execFftFwd buffer s
  | .fftInv src ops => Sys2Proof.Machine.execFftInv src ops s
  | .fftBandf idx => Sys2Proof.Machine.execFftBandf idx s
  | .bqSet type pm ops => Sys2Proof.Machine.execBqSet type pm ops s
  | .bqSetType type => Sys2Proof.Machine.execBqSetType type s
  | .bqSetFreq f0 => Sys2Proof.Machine.execBqSetFreq f0 s
  | .bqSetQ q => Sys2Proof.Machine.execBqSetQ q s
  | .bqSetGain gain => Sys2Proof.Machine.execBqSetGain gain s
  | .bqSetBw bw => Sys2Proof.Machine.execBqSetBw bw s
  | .bqSetFs fs => Sys2Proof.Machine.execBqSetFs fs s
  | .bqRecompute => Sys2Proof.Machine.execBqRecompute s
  | .bqCoeffs a0 b0 b1 b2 a1 a2 => Sys2Proof.Machine.execBqCoeffs a0 b0 b1 b2 a1 a2 s
  | .bqTick x => Sys2Proof.Machine.execBqTick x s
  | .bqProcess buffer => Sys2Proof.Machine.execBqProcess buffer s
  | .bqClear => Sys2Proof.Machine.execBqClear s

end Sys2Proof.Machine
end

