-- ==== Sys2Proof/Machine/Run.lean ====
section
/-! DEFINITION. One packet, decoded and executed to completion (20_memory.md R60). -/

namespace Sys2Proof.Machine

/-- One packet: its command, or `raise E_ILLEGAL` where it is illegal (30_encoding.md R85,
60_exceptions.md R234). -/
def runPacket (p : Packet) (s : State) : Outcome :=
  match decode p with
  | .ok i    => exec i s
  | .error _ => raise .illegal s

end Sys2Proof.Machine
end

