-- ==== Sys2Proof/Machine/Step.lean ====
section
/-! DEFINITION. One step: the block takes the host's next input. A packet is decoded and executed to
completion, or answered `E_ILLEGAL`; a reset puts the block in the reset state; with nothing sent the
block idles (20_memory.md R59, R60, 60_exceptions.md R234, 70_reset_and_hazards.md R260, R270). -/

namespace Sys2Proof.Machine

/-- One step of the block. -/
def step (s : State) : Host.Outcome State Fault Refusal :=
  match s.nextInput with
  | none                => .next s.idle
  | some (.reset _, t)  => .next t.hostReset
  | some (.packet p, t) => runPacket p t

/-- The state in which the host's next packet is the opcode-table word `w` of `nbits` bits (log entries
6 and 7). -/
def State.withFetchWord (s : State) (nbits w : Nat) : State :=
  s.withNextPacket (tablePacket nbits w)

end Sys2Proof.Machine
end

