-- ==== Sys2Proof/Safety.lean ====
section
/-! DEFINITION. What holds in every reachable state (10_state.md R43) and what counts as a safe step,
in the terms the statements use. -/

namespace Sys2Proof.Machine

/-- The arrays have their logical lengths (20_memory.md R51), and the tables the contents of 41_fft.md
R131 and R133. -/
structure MemoryInv (m : Memory) (n : Nat) : Prop where
  wf    : m.wf n = true
  rev   : m.rev = revTable n
  twsin : m.twsin = sinTable n
  twcos : m.twcos = cosTable n

/-- The invariant of 10_state.md R43 (a), (b), (c), with the lengths and the tables. -/
structure Inv (s : State) : Prop where
  capacity : s.len ≤ Config.nMax
  err      : s.fft.err = 0 ∨ s.fft.err = 1 ∨ s.fft.err = 2
  peakBand : s.fft.peakBand.toNat < max (s.len / 2) 1
  mem      : MemoryInv s.mem s.len

/-- `MAG`, `PHASE`, `PEAK`, `PEAKBAND` are the functions of `RE`, `IM` of 41_fft.md R143 and R144 (10_state.md
R43 (d)), with some draw for the NaN patterns. -/
def SpectrumOk (s : State) : Prop :=
  ∃ draw,
    s.mem.mag = magnitudes draw s.len { re := s.mem.re, im := s.mem.im } ∧
    s.mem.phase = phases draw s.len { re := s.mem.re, im := s.mem.im } ∧
    s.fft.peak = (peakOf s.mem.mag).value ∧
    s.fft.peakBand = BitVec.ofNat 24 (peakOf s.mem.mag).band

/-- The coefficients are the recompute of the parameters (10_state.md R43 (e)), with some draw for the
NaN patterns. -/
def DesignOk (s : State) : Prop :=
  ∃ draw, s.coef = design draw s.par

/-- A step that is neither a fault nor a refusal. -/
def Safe (o : Host.Outcome State Fault Refusal) : Prop :=
  ∃ t, o = .next t

/-! ### Rounding (40_numerics.md R101) -/

/-- Half way between the largest finite magnitude and 2^1024, in units of 2^-1074: from here on
rounding to nearest gives an infinity. -/
def overflowUnits : Nat := (2 ^ 54 - 1) * 2 ^ 2044

/-- `den` times the distance of `u` units from `num / den` units. -/
def distance (u num den : Nat) : Nat := ((u * den : Int) - num).natAbs

/-- `r` is the value of sign `sign` and magnitude `num / den` units rounded to the nearest binary64,
ties to the even fraction, to an infinity past the largest finite. -/
def RoundsTo (r : F64) (sign : Bool) (num den : Nat) : Prop :=
  signBit r = sign ∧
    if overflowUnits * den ≤ num then magBits r = infMag
    else
      isFinite r = true ∧
        ∀ c, isFinite c = true →
          distance (units r) num den ≤ distance (units c) num den ∧
            (distance (units r) num den = distance (units c) num den → units c ≠ units r →
              magBits r % 2 = 0)

/-- `r` is the root of `x`, in units of 2^-1074, rounded to the nearest binary64, ties to the even
fraction: no finite pattern lies on the other side of the root and nearer. -/
def RootRoundsTo (r : F64) (x : Nat) : Prop :=
  signBit r = false ∧ isFinite r = true ∧
    ∀ c, isFinite c = true →
      (units r < units c →
        4 * x ≤ (units r + units c) ^ 2 ∧ (4 * x = (units r + units c) ^ 2 → magBits r % 2 = 0)) ∧
      (units c < units r →
        (units r + units c) ^ 2 ≤ 4 * x ∧ ((units r + units c) ^ 2 = 4 * x → magBits r % 2 = 0))

/-! ### The running phase of the network (41_fft.md R136, R138) -/

/-- The phase of group `g` of a stage with rotation increment `(sr, si)`: the `g`-fold complex product
of `(1.0, +0)` with it, each operation rounded on its own. -/
def runningPhase (draw : Nat) (sr si : F64) : Nat → F64 × F64
  | 0     => (0x3FF0000000000000, 0x0000000000000000)
  | g + 1 =>
      let p := runningPhase draw sr si g
      (fsub draw (fmul draw p.1 sr) (fmul draw p.2 si),
       fadd draw (fmul draw p.1 si) (fmul draw p.2 sr))

/-! ### Packets (30_encoding.md R83, R85) -/

/-- The assigned opcodes with their "zero" fields in `CW[23:0]` and the operand count of 30_encoding.md
R83: a number, or none where every count is legal. `BQ.SET` is apart: its count is in its word. -/
def commandRows : List (Nat × Nat × Option Nat) :=
  [(0x01, 0x000000, some 0), (0x10, 0x000000, some 1), (0x11, 0xFFFFFF, none),
   (0x12, 0xFFFFFC, none), (0x13, 0x000000, some 0), (0x21, 0xFFFFF0, some 0),
   (0x22, 0xFFFFFF, some 1), (0x23, 0xFFFFFF, some 1), (0x24, 0xFFFFFF, some 1),
   (0x25, 0xFFFFFF, some 1), (0x26, 0xFFFFFF, some 1), (0x27, 0xFFFFFF, some 0),
   (0x28, 0xFFFFFF, some 6), (0x30, 0xFFFFFF, some 1), (0x31, 0xFFFFFF, none),
   (0x32, 0xFFFFFF, some 0)]

/-- A legal `BQ.SET` packet, from the bits of its word (30_encoding.md R79, R83, R85). -/
def legalSet (p : Packet) : Prop :=
  p.cw.toNat / 2 ^ 24 = 0x20 ∧ p.cw.toNat % 2 ^ 24 < 2 ^ 8 ∧
    (p.cw[4] = false → p.cw.toNat % 16 = 0) ∧
    p.ops.length = (p.cw[5]).toNat + (p.cw[6]).toNat + (p.cw[7]).toNat

/-- A packet that is none of the cases of 30_encoding.md R85. -/
def LegalPacket (p : Packet) : Prop :=
  legalSet p ∨
    ∃ row ∈ commandRows,
      p.cw.toNat / 2 ^ 24 = row.1 ∧ p.cw.toNat % 2 ^ 24 &&& row.2.1 = 0 ∧
        ∀ k, row.2.2 = some k → p.ops.length = k

/-! ### Reads (10_state.md R40) -/

/-- The 20 register numbers with what `RD` of each returns (10_state.md R40). -/
def csrMap (s : State) : List (BitVec 20 × BitVec 64) :=
  [(0x00, BitVec.ofNat 64 s.fft.n.toNat), (0x01, s.fft.fs), (0x02, BitVec.ofNat 64 s.fft.err.toNat),
   (0x03, s.fft.peak), (0x04, BitVec.ofNat 64 s.fft.peakBand.toNat),
   (0x10, BitVec.ofNat 64 s.par.type.toNat), (0x11, s.par.fs), (0x12, s.par.f0), (0x13, s.par.q),
   (0x14, s.par.gain), (0x18, s.coef.a0), (0x19, s.coef.b0), (0x1A, s.coef.b1),
   (0x1B, s.coef.b2), (0x1C, s.coef.a1), (0x1D, s.coef.a2), (0x20, s.hist.x1), (0x21, s.hist.x2),
   (0x22, s.hist.y1), (0x23, s.hist.y2)]

/-! ### Sequences of commands -/

/-- `t` is the state after one `BQ.TICK` per sample of `xs`, each answering one word: `ys`. -/
inductive TicksTo : State → List F64 → List F64 → State → Prop where
  | nil (s : State) : TicksTo s [] [] s
  | cons (s t u : State) (x y : F64) (xs ys : List F64) :
      exec (.bqTick x) s = .next t → t.responses = s.responses ++ [{ status := .ok, words := [y] }] →
      TicksTo t xs ys u → TicksTo s (x :: xs) (y :: ys) u

/-- The five ratios of the recursion are finite (43_biquad_processor.md R207). -/
def FiniteRatios (draw : Nat) (c : Coeffs) : Prop :=
  isFinite (fdiv draw c.b0 c.a0) = true ∧ isFinite (fdiv draw c.b1 c.a0) = true ∧
    isFinite (fdiv draw c.b2 c.a0) = true ∧ isFinite (fdiv draw c.a1 c.a0) = true ∧
    isFinite (fdiv draw c.a2 c.a0) = true

/-- The commands of the FFTEngine (00_scope.md R15). -/
def fftCommand : Instr → Bool
  | .rd _ _               => false
  | .fftCfg _ _           => true
  | .fftFwd _             => true
  | .fftInv _ _           => true
  | .fftBandf _           => true
  | .bqSet _ _ _          => false
  | .bqSetType _          => false
  | .bqSetFreq _          => false
  | .bqSetQ _             => false
  | .bqSetGain _          => false
  | .bqSetBw _            => false
  | .bqSetFs _            => false
  | .bqRecompute          => false
  | .bqCoeffs _ _ _ _ _ _ => false
  | .bqTick _             => false
  | .bqProcess _          => false
  | .bqClear              => false

/-- The commands of the designer and the processor (00_scope.md R15). -/
def bqCommand : Instr → Bool
  | .rd _ _               => false
  | .fftCfg _ _           => false
  | .fftFwd _             => false
  | .fftInv _ _           => false
  | .fftBandf _           => false
  | .bqSet _ _ _          => true
  | .bqSetType _          => true
  | .bqSetFreq _          => true
  | .bqSetQ _             => true
  | .bqSetGain _          => true
  | .bqSetBw _            => true
  | .bqSetFs _            => true
  | .bqRecompute          => true
  | .bqCoeffs _ _ _ _ _ _ => true
  | .bqTick _             => true
  | .bqProcess _          => true
  | .bqClear              => true

/-- The commands that recompute (42_biquad_designer.md R171 to R180). -/
def recomputingCommand : Instr → Bool
  | .rd _ _               => false
  | .fftCfg _ _           => false
  | .fftFwd _             => false
  | .fftInv _ _           => false
  | .fftBandf _           => false
  | .bqSet _ _ _          => true
  | .bqSetType _          => true
  | .bqSetFreq _          => true
  | .bqSetQ _             => true
  | .bqSetGain _          => true
  | .bqSetBw _            => true
  | .bqSetFs _            => true
  | .bqRecompute          => true
  | .bqCoeffs _ _ _ _ _ _ => false
  | .bqTick _             => false
  | .bqProcess _          => false
  | .bqClear              => false

/-- The non-zero statuses a command can answer (60_exceptions.md R246), `E_ILLEGAL` apart: a term that
decodes from a packet is not illegal. -/
def faultsOf : Instr → List Status
  | .rd _ _               => [.index]
  | .fftCfg _ _           => [.capacity]
  | .fftFwd _             => [.notPow2, .length, .fftFault]
  | .fftInv _ _           => [.notPow2, .length, .fftFault]
  | .fftBandf _           => [.fftFault]
  | .bqSet _ _ _          => []
  | .bqSetType _          => []
  | .bqSetFreq _          => []
  | .bqSetQ _             => []
  | .bqSetGain _          => []
  | .bqSetBw _            => []
  | .bqSetFs _            => []
  | .bqRecompute          => []
  | .bqCoeffs _ _ _ _ _ _ => []
  | .bqTick _             => []
  | .bqProcess _          => []
  | .bqClear              => []

/-- The result words of a completed command at transform length `n` (30_encoding.md R81). -/
def resultCountOf (n : Nat) : Instr → Nat
  | .rd _ _               => 1
  | .fftCfg _ _           => 0
  | .fftFwd _             => 0
  | .fftInv _ _           => n
  | .fftBandf _           => 1
  | .bqSet _ _ _          => 0
  | .bqSetType _          => 0
  | .bqSetFreq _          => 0
  | .bqSetQ _             => 0
  | .bqSetGain _          => 0
  | .bqSetBw _            => 0
  | .bqSetFs _            => 0
  | .bqRecompute          => 0
  | .bqCoeffs _ _ _ _ _ _ => 0
  | .bqTick _             => 1
  | .bqProcess buffer     => buffer.length
  | .bqClear              => 0

end Sys2Proof.Machine
end

