-- ==== Sys2Proof/Certificates/Slice0/Obligations.lean ====
section
/-! DEFINITION. The statements about DSPCORE, from the numbered rules of spec/. A draw is the number
from which a produced NaN takes its pattern: a statement that names one holds for every value of it.
That a command passes the draws on is the model's choice (log entry 2), in every statement that says so.
`s.responses ++ [r]` is: the command answered `r`. -/

open Sys2Proof Sys2Proof.Machine

/-! ### Packets, decoding, stepping -/

/-- 20_memory.md R60, 30_encoding.md R70: when the host's next input is a packet that decodes to `i`,
the step takes the packet and is `exec i`; every such `i` is well formed. -/
def Obligations.StepRunsTheDecodedCommand : Prop :=
  ∀ (s : State) (p : Packet) (rest : List HostInput) (i : Instr),
    s.inbox = .packet p :: rest → decode p = .ok i →
      step s = exec i { s with inbox := rest } ∧ i.wf = true

/-- 30_encoding.md R83, R85 and 60_exceptions.md R234: a packet decodes exactly when none of the cases
of R85 holds; otherwise the step answers `E_ILLEGAL` with no words and writes no state. -/
def Obligations.IllegalPacketsAnswerIllegal : Prop :=
  ∀ (s : State) (p : Packet) (rest : List HostInput), s.inbox = .packet p :: rest →
    (LegalPacket p → ∃ i, decode p = .ok i ∧ i.wf = true) ∧
    (¬ LegalPacket p →
      (∃ e, decode p = .error e) ∧
        step s = .next { s with
          inbox := rest
          responses := s.responses ++ [{ status := .illegal, words := [] }] })

/-- 30_encoding.md R74 to R83: decoding the packet of any well-formed command gives it back, every
field at every value. -/
def Obligations.DecodeOfEncodeIsIdentity : Prop :=
  ∀ i : Instr, i.wf = true → decode (encode i) = .ok i

/-- 30_encoding.md R74 to R85: a legal packet has one reading; the packet of the command it decodes to
is the packet itself. -/
def Obligations.EncodeOfDecodeIsIdentity : Prop :=
  ∀ (p : Packet) (i : Instr), decode p = .ok i → encode i = p ∧ i.wf = true

/-- 20_memory.md R55: the little-endian bytes of a packet hold the packet, and decoding them is
decoding it. -/
def Obligations.PacketBytesHoldThePacket : Prop :=
  ∀ p : Packet, Packet.ofBytes p.toBytes = some p ∧ decodeBytes p.toBytes = decode p

/-- 30_encoding.md R86 and 95_test_vectors.md V-E1, V-E6, V-E10, V-E14, V-E24, V-E28, V-E33: words
written out from the formats decode to the commands they stand for. -/
def Obligations.WrittenWordsDecode : Prop :=
  decode { cw := 0x10000008, ops := [0x40E5888000000000] } =
      .ok (.fftCfg 8 0x40E5888000000000) ∧
    decode { cw := 0x12000003, ops := [] } = .ok (.fftInv 3 []) ∧
    decode { cw := 0x200000F5, ops := [1, 2, 3] } = .ok (.bqSet 5 0xF [1, 2, 3]) ∧
    decode { cw := 0x20000051, ops := [7] } = .ok (.bqSet 1 5 [7]) ∧
    decode { cw := 0x30000000, ops := [7] } = .ok (.bqTick 7) ∧
    decode { cw := 0x01200001, ops := [] } = .ok (.rd 2 1) ∧
    decode { cw := 0x00000000, ops := [] } = .error .unassignedOpcode

/-! ### Arithmetic -/

/-- 40_numerics.md R101, R103: the sum of two finite values is the exact sum rounded once to nearest
even; an exact zero is +0 but for two negative operands; `fsub` is the sum with the sign flipped. -/
def Obligations.AddRoundsTheExactSumOnce : Prop :=
  ∀ (draw : Nat) (a b : F64), isFinite a = true → isFinite b = true →
    (signedUnits a + signedUnits b ≠ 0 →
      RoundsTo (fadd draw a b) (decide (signedUnits a + signedUnits b < 0))
        (signedUnits a + signedUnits b).natAbs 1) ∧
    (signedUnits a + signedUnits b = 0 →
      fadd draw a b = if signBit a && signBit b then negZero else posZero) ∧
    fsub draw a b = fadd draw a (flipSign b)

/-- 40_numerics.md R101: the product of two finite values is the exact product rounded once to nearest
even, with the sign the product of the signs. -/
def Obligations.MulRoundsTheExactProductOnce : Prop :=
  ∀ (draw : Nat) (a b : F64), isFinite a = true → isFinite b = true →
    RoundsTo (fmul draw a b) (signBit a != signBit b) (units a * units b) unitsPerOne

/-- 40_numerics.md R101: the quotient of a finite value by a finite non-zero one is the exact quotient
rounded once to nearest even, with the sign the product of the signs. -/
def Obligations.DivRoundsTheExactQuotientOnce : Prop :=
  ∀ (draw : Nat) (a b : F64), isFinite a = true → isFinite b = true → isZero b = false →
    RoundsTo (fdiv draw a b) (signBit a != signBit b) (units a * unitsPerOne) (units b)

/-- 40_numerics.md R101: the square root of a finite positive value is the exact root rounded once to
nearest even. -/
def Obligations.SqrtRoundsTheExactRootOnce : Prop :=
  ∀ (draw : Nat) (a : F64), isFinite a = true → isZero a = false → signBit a = false →
    RootRoundsTo (fsqrt draw a) (units a * unitsPerOne)

/-- 40_numerics.md R101: sums and products do not depend on the order of their operands, but for a
NaN's pattern. -/
def Obligations.AddAndMulCommuteUpToNaN : Prop :=
  ∀ (draw : Nat) (a b : F64),
    sameUpToNaN (fadd draw a b) (fadd draw b a) = true ∧
      sameUpToNaN (fmul draw a b) (fmul draw b a) = true

/-- 40_numerics.md R103, first sentence to last: `x` finite and non-zero, `z` a zero, `inf` an
infinity. -/
def Obligations.SpecialOperandsGiveTheListedResults : Prop :=
  ∀ (d : Nat) (x z z' inf inf' : F64),
    isFinite x = true → isZero x = false → isZero z = true → isZero z' = true →
    isInf inf = true → isInf inf' = true →
    fdiv d x z = (if signBit x != signBit z then flipSign posInf else posInf) ∧
    isNaN (fdiv d z z') = true ∧ isNaN (fdiv d inf inf') = true ∧
    fdiv d x inf = (if signBit x != signBit inf then negZero else posZero) ∧
    isNaN (fmul d inf z) = true ∧
    fmul d x z = (if signBit x != signBit z then negZero else posZero) ∧
    isNaN (fadd d posInf (flipSign posInf)) = true ∧
    fsub d x x = posZero ∧
    fadd d posZero negZero = posZero ∧ fadd d negZero negZero = negZero ∧
    fadd d posZero posZero = posZero ∧ fsub d posZero posZero = posZero ∧
    fsub d negZero posZero = negZero ∧ fsub d posZero negZero = posZero ∧
    fsub d negZero negZero = posZero ∧
    fadd d x z = x ∧
    fsqrt d posZero = posZero ∧ fsqrt d negZero = negZero ∧
    (signBit x = true → isNaN (fsqrt d x) = true) ∧ isNaN (fsqrt d (flipSign posInf)) = true ∧
    fsqrt d posInf = posInf

/-- 40_numerics.md R105: a NaN operand of the basic operations, of negation or of a transcendental unit
gives a NaN. -/
def Obligations.NaNOperandsGiveNaN : Prop :=
  ∀ (d : Nat) (a b : F64), isNaN a = true →
    isNaN (fadd d a b) = true ∧ isNaN (fadd d b a) = true ∧
    isNaN (fsub d a b) = true ∧ isNaN (fsub d b a) = true ∧
    isNaN (fmul d a b) = true ∧ isNaN (fmul d b a) = true ∧
    isNaN (fdiv d a b) = true ∧ isNaN (fdiv d b a) = true ∧
    isNaN (fsqrt d a) = true ∧ isNaN (fneg d a) = true ∧
    isNaN (unitSin d a) = true ∧ isNaN (unitCos d a) = true ∧
    isNaN (unitAtan2 d a b) = true ∧ isNaN (unitAtan2 d b a) = true ∧
    isNaN (unitPow d a b) = true ∧ isNaN (unitPow d b a) = true

/-- 40_numerics.md R105, R114: no result depends on a NaN's pattern or on the draw: operands equal up
to NaN give results equal up to NaN, and the same comparison. -/
def Obligations.NoResultDependsOnANaNPattern : Prop :=
  ∀ (d d' : Nat) (a a' b b' c c' : F64), sameUpToNaN a a' = true → sameUpToNaN b b' = true →
    sameUpToNaN c c' = true →
    sameUpToNaN (fadd d a b) (fadd d' a' b') = true ∧
    sameUpToNaN (fsub d a b) (fsub d' a' b') = true ∧
    sameUpToNaN (fmul d a b) (fmul d' a' b') = true ∧
    sameUpToNaN (fdiv d a b) (fdiv d' a' b') = true ∧
    sameUpToNaN (fsqrt d a) (fsqrt d' a') = true ∧
    sameUpToNaN (fneg d a) (fneg d' a') = true ∧
    sameUpToNaN (unitSin d a) (unitSin d' a') = true ∧
    sameUpToNaN (unitCos d a) (unitCos d' a') = true ∧
    sameUpToNaN (unitAtan2 d a b) (unitAtan2 d' a' b') = true ∧
    sameUpToNaN (unitPow d a b) (unitPow d' a' b') = true ∧
    sameUpToNaN (unitBw2q d a b c) (unitBw2q d' a' b' c') = true ∧
    fgt a b = fgt a' b'

/-- 40_numerics.md R107: `fneg(a)` is `fmul(−1.0, a)`, the sign flipped for a non-NaN, a NaN for a
NaN. -/
def Obligations.NegationFlipsTheSign : Prop :=
  ∀ (d : Nat) (a : F64),
    fneg d a = fmul d 0xBFF0000000000000 a ∧
    (isNaN a = false → fneg d a = a ^^^ 0x8000000000000000) ∧
    (isNaN a = true → isNaN (fneg d a) = true)

/-- 40_numerics.md R108: the comparison is that of the values, false on a NaN, equal on the two zeros,
with +∞ above and −∞ below every finite value; `i2f` is exact below 2^53. -/
def Obligations.ComparisonAndConversionAreExact : Prop :=
  (∀ a b : F64,
    (isNaN a = true ∨ isNaN b = true → fgt a b = false) ∧
    (isFinite a = true → isFinite b = true →
      (fgt a b = true ↔ signedUnits b < signedUnits a)) ∧
    (isZero a = true → isZero b = true → fgt a b = false) ∧
    (isFinite b = true → fgt posInf b = true ∧ fgt b (flipSign posInf) = true) ∧
    fgt posInf (flipSign posInf) = true ∧
    fgt a posInf = false ∧ fgt (flipSign posInf) b = false) ∧
  ∀ n : Nat, n < 2 ^ 53 →
    isFinite (i2f n) = true ∧ signBit (i2f n) = false ∧ units (i2f n) = n * unitsPerOne

/-- 40_numerics.md R110 to R113: the values the rules state for the units, and the class of
`POW(10.0, y)`: overflow, underflow through the subnormals and to zero. The angles are those of R112
with the digits of log entry 3; the classes are those of log entry 19, stated at whole exponents. -/
def Obligations.UnitsHaveTheStatedValues : Prop :=
  (∀ (d : Nat) (y x inf : F64), isInf inf = true → isFinite y = true → isZero y = false →
    isFinite x = true → isZero x = false →
    isNaN (unitSin d inf) = true ∧ unitSin d posZero = posZero ∧ unitSin d negZero = negZero ∧
    isNaN (unitCos d inf) = true ∧ unitCos d posZero = one ∧ unitCos d negZero = one ∧
    unitAtan2 d posZero posZero = posZero ∧ unitAtan2 d negZero posZero = negZero ∧
    unitAtan2 d posZero negZero = piConst ∧ unitAtan2 d negZero negZero = flipSign piConst ∧
    unitAtan2 d posZero x = (if signBit x then piConst else posZero) ∧
    unitAtan2 d negZero x = (if signBit x then flipSign piConst else negZero) ∧
    unitAtan2 d y posZero = (if signBit y then flipSign halfPi else halfPi) ∧
    unitAtan2 d y negZero = (if signBit y then flipSign halfPi else halfPi) ∧
    unitAtan2 d y posInf = (if signBit y then negZero else posZero) ∧
    unitAtan2 d y (flipSign posInf) = (if signBit y then flipSign piConst else piConst) ∧
    unitAtan2 d inf x = (if signBit inf then flipSign halfPi else halfPi) ∧
    unitAtan2 d inf posInf = (if signBit inf then flipSign quarterPi else quarterPi) ∧
    unitAtan2 d inf (flipSign posInf) =
      (if signBit inf then flipSign threeQuarterPi else threeQuarterPi) ∧
    unitAtan2 d inf posZero = (if signBit inf then flipSign halfPi else halfPi) ∧
    unitAtan2 d inf negZero = (if signBit inf then flipSign halfPi else halfPi) ∧
    unitAtan2 d posZero posInf = posZero ∧ unitAtan2 d negZero posInf = negZero ∧
    unitAtan2 d posZero (flipSign posInf) = piConst ∧
    unitAtan2 d negZero (flipSign posInf) = flipSign piConst ∧
    unitPow d ten posZero = one ∧ unitPow d ten negZero = one ∧
    unitPow d ten posInf = posInf ∧ unitPow d ten (flipSign posInf) = posZero) ∧
  ∀ (d : Nat) (y : F64), isFinite y = true →
    let r := unitPow d ten y
    (309 * (unitsPerOne : Int) ≤ signedUnits y → r = posInf) ∧
    (-307 * (unitsPerOne : Int) ≤ signedUnits y → signedUnits y ≤ 308 * (unitsPerOne : Int) →
      signBit r = false ∧ isFinite r = true ∧ 2 ^ 52 ≤ magBits r) ∧
    (-323 * (unitsPerOne : Int) ≤ signedUnits y → signedUnits y ≤ -308 * (unitsPerOne : Int) →
      signBit r = false ∧ isZero r = false ∧ magBits r < 2 ^ 52) ∧
    (signedUnits y ≤ -324 * (unitsPerOne : Int) → r = posZero)

/-! ### Integer laws and tables -/

/-- 40_numerics.md R121: bit `k` of the reversal is bit `n − 1 − k`; it is an involution and so a
permutation of [0, 2^n). -/
def Obligations.BitReversalReversesAndPermutes : Prop :=
  (∀ i : Nat, bitrev i 0 = 0) ∧
  ∀ n i : Nat, i < 2 ^ n →
    bitrev i n < 2 ^ n ∧
    (∀ k, k < n → (bitrev i n).testBit k = i.testBit (n - 1 - k)) ∧
    bitrev (bitrev i n) n = i ∧
    (∀ j, j < 2 ^ n → ∃ l, l < 2 ^ n ∧ bitrev l n = j)

/-- 40_numerics.md R122: the test is true exactly of 1, 2, 4, ..., 2^23 among the 24-bit numbers, and
the logarithm is the place of the bit. -/
def Obligations.PowerOfTwoTestIsExact : Prop :=
  ∀ n : Nat, n < 2 ^ 24 →
    (isPow2 n = true ↔ ∃ k, k < 24 ∧ n = 2 ^ k) ∧
    (∀ k, n = 2 ^ k → log2 n = k)

/-- 41_fft.md R132: the construction by doubling gives the table of R131. -/
def Obligations.DoublingBuildsTheReverseTable : Prop :=
  ∀ k : Nat, k < 24 → revByDoubling (2 ^ k) k = revTable (2 ^ k)

/-- 41_fft.md R131, R133, after a configuration: `REV[i]` is the bit reversal where the length is a
power of two and the table is empty where it is not; ROM entry `i` is the sine and the cosine of
`−PI / i` for every index below the length, a NaN for index 0. -/
def Obligations.ConfigurationBuildsTheTables : Prop :=
  ∀ (s : State) (n : BitVec 24) (fs : F64), n.toNat ≤ Config.nMax →
    ∃ t, exec (.fftCfg n fs) s = .next t ∧
      (isPow2 n.toNat = true →
        t.mem.rev.length = n.toNat ∧
          ∀ i, i < n.toNat → t.mem.rev[i]? = some (bitrev i (log2 n.toNat))) ∧
      (isPow2 n.toNat = false → t.mem.rev = []) ∧
      t.mem.twsin.length = n.toNat ∧ t.mem.twcos.length = n.toNat ∧
      ∀ i, i < n.toNat →
        t.mem.twsin[i]? = some (unitSin Config.romDraw
          (fdiv Config.romDraw (fneg Config.romDraw piConst) (i2f i))) ∧
        t.mem.twcos[i]? = some (unitCos Config.romDraw
          (fdiv Config.romDraw (fneg Config.romDraw piConst) (i2f i))) ∧
        (i = 0 → ∃ v w, t.mem.twsin[i]? = some v ∧ t.mem.twcos[i]? = some w ∧
          isNaN v = true ∧ isNaN w = true)

/-! ### The butterfly network -/

/-- 41_fft.md R135 to R139: the butterfly on `i` and `o = i + h` (`tr`, `ti` from the old `o`, both
writes of `o` and of `i` from the old `i`, no other element changed); a stage of half-size `h = 2^j`
does so to every pair `i`, `i + h` with `i mod 2h < h`, with the phase of group `i mod 2h` from the ROM
entry `h`; the network is the stages of half-size 1, 2, 4, ..., 2^(k−1) in that order, none for
length 1. -/
def Obligations.ButterflyCombinesOnePair : Prop :=
  (∀ (d h i : Nat) (pr pi : F64) (w : Wave) (ri ii ro io : F64), 0 < h →
    w.re[i]? = some ri → w.im[i]? = some ii → w.re[i + h]? = some ro → w.im[i + h]? = some io →
    let tr := fsub d (fmul d pr ro) (fmul d pi io)
    let ti := fadd d (fmul d pr io) (fmul d pi ro)
    let v := butterfly d h { re := pr, im := pi } i w
    v.re[i + h]? = some (fsub d ri tr) ∧ v.im[i + h]? = some (fsub d ii ti) ∧
    v.re[i]? = some (fadd d ri tr) ∧ v.im[i]? = some (fadd d ii ti) ∧
    ∀ j, j ≠ i → j ≠ i + h → v.re[j]? = w.re[j]? ∧ v.im[j]? = w.im[j]?) ∧
  (∀ (d k j : Nat) (cosA sinA : List F64) (sr si : F64) (w : Wave), j < k →
    w.re.length = 2 ^ k → w.im.length = 2 ^ k →
    cosA[2 ^ j]? = some sr → sinA[2 ^ j]? = some si →
    let v := stage d (2 ^ k) cosA sinA (2 ^ j) w
    v.re.length = 2 ^ k ∧ v.im.length = 2 ^ k ∧
    ∀ (i : Nat) (ri ii ro io : F64), i % (2 * 2 ^ j) < 2 ^ j →
      w.re[i]? = some ri → w.im[i]? = some ii →
      w.re[i + 2 ^ j]? = some ro → w.im[i + 2 ^ j]? = some io →
      let p := runningPhase d sr si (i % (2 * 2 ^ j))
      let tr := fsub d (fmul d p.1 ro) (fmul d p.2 io)
      let ti := fadd d (fmul d p.1 io) (fmul d p.2 ro)
      v.re[i + 2 ^ j]? = some (fsub d ri tr) ∧ v.im[i + 2 ^ j]? = some (fsub d ii ti) ∧
      v.re[i]? = some (fadd d ri tr) ∧ v.im[i]? = some (fadd d ii ti)) ∧
  (∀ (d k : Nat) (cosA sinA : List F64) (w : Wave), ∃ ws : Nat → Wave,
    ws 0 = w ∧ (∀ j, j < k → ws (j + 1) = stage d (2 ^ k) cosA sinA (2 ^ j) (ws j)) ∧
    butterflies d (2 ^ k) cosA sinA w = ws k)

/-- 41_fft.md R139: for a power of two the network neither reads nor writes an element at or past the
length: whatever stands there is still there, and the elements below come out the same. -/
def Obligations.NetworkStaysBelowTheLength : Prop :=
  ∀ (d k : Nat) (c s : List F64) (w : Wave) (pastRe pastIm : List F64),
    w.re.length = 2 ^ k → w.im.length = 2 ^ k →
    butterflies d (2 ^ k) c s { re := w.re ++ pastRe, im := w.im ++ pastIm } =
      { re := (butterflies d (2 ^ k) c s w).re ++ pastRe
        im := (butterflies d (2 ^ k) c s w).im ++ pastIm }

/-- 41_fft.md R136, R138: a transform of length 2^k reads the ROM at the indices 1, 2, 4, ..., 2^(k−1)
only, never at 0: tables that agree there give the same result. -/
def Obligations.NetworkReadsPowerOfTwoEntriesOnly : Prop :=
  ∀ (d k : Nat) (cosA sinA cosB sinB : List F64) (w : Wave),
    (∀ j, j < k → cosA[2 ^ j]? = cosB[2 ^ j]? ∧ sinA[2 ^ j]? = sinB[2 ^ j]?) →
    butterflies d (2 ^ k) cosA sinA w = butterflies d (2 ^ k) cosB sinB w

/-! ### The FFT commands -/

/-- 41_fft.md R140: up to `N_MAX` every length is accepted, also with a fault latched; all FFTEngine
state is written, zero-filled, and nothing of the filter. Past `N_MAX` nothing is written. -/
def Obligations.CfgConstructsTheEngine : Prop :=
  ∀ (s : State) (n : BitVec 24) (fs : F64),
    (n.toNat ≤ Config.nMax →
      exec (.fftCfg n fs) s = .next { s with
        fft := { n := n, fs := fs, err := 0, peak := posZero, peakBand := 0 }
        mem :=
          { re := List.replicate n.toNat posZero
            im := List.replicate n.toNat posZero
            mag := List.replicate (n.toNat / 2) posZero
            phase := List.replicate (n.toNat / 2) posZero
            rev := revTable n.toNat
            twsin := sinTable n.toNat
            twcos := cosTable n.toNat }
        responses := s.responses ++ [{ status := .ok, words := [] }] }) ∧
    (Config.nMax < n.toNat →
      exec (.fftCfg n fs) s = .next { s with
        responses := s.responses ++ [{ status := .capacity, words := [] }] })

/-- 41_fft.md R141, R142, R143: with no fault latched, a power of two and a buffer of its length, the
command completes: the bit-reversed load goes through the network, bins 0 .. H−1 get magnitude and
phase, and nothing else changes but the peak, the response and the draws (log entry 2). -/
def Obligations.ForwardTransformsTheBuffer : Prop :=
  ∀ (s : State) (buffer : List F64), s.fft.err = 0 → isPow2 s.len = true →
    buffer.length = s.len → MemoryInv s.mem s.len →
    ∃ (load : List F64) (w : Wave) (mag phase : List F64) (peak : F64) (band : BitVec 24),
      load.length = s.len ∧
      (∀ i, i < s.len → load[i]? = buffer[bitrev i (log2 s.len)]?) ∧
      w = butterflies s.draws s.len s.mem.twcos s.mem.twsin
        { re := load, im := List.replicate s.len posZero } ∧
      w.re.length = s.len ∧ w.im.length = s.len ∧
      mag.length = s.len / 2 ∧ phase.length = s.len / 2 ∧
      (∀ i, i < s.len / 2 → ∀ re im, w.re[i]? = some re → w.im[i]? = some im →
        mag[i]? = some (fmul s.draws (fdiv s.draws two (i2f s.len))
          (fsqrt s.draws (fadd s.draws (fmul s.draws re re) (fmul s.draws im im)))) ∧
        phase[i]? = some (unitAtan2 s.draws im re)) ∧
      exec (.fftFwd buffer) s = .next { s with
        fft := { s.fft with peak := peak, peakBand := band }
        mem := { s.mem with re := w.re, im := w.im, mag := mag, phase := phase }
        responses := s.responses ++ [{ status := .ok, words := [] }]
        draws := s.draws + 1 }

/-- 41_fft.md R144: after a completed forward transform the peak is no NaN, no magnitude is greater, it
is the first of its value, and where every magnitude is a zero or a NaN it is +0 at bin 0. -/
def Obligations.PeakIsTheFirstLargestMagnitude : Prop :=
  ∀ (s t : State) (buffer : List F64), s.fft.err = 0 → isPow2 s.len = true →
    buffer.length = s.len → MemoryInv s.mem s.len → exec (.fftFwd buffer) s = .next t →
    isNaN t.fft.peak = false ∧
    (∀ m ∈ t.mem.mag, fgt m t.fft.peak = false) ∧
    (fgt t.fft.peak posZero = true →
      t.mem.mag[t.fft.peakBand.toNat]? = some t.fft.peak ∧
        ∀ j, j < t.fft.peakBand.toNat → ∀ m, t.mem.mag[j]? = some m →
          isNaN m = true ∨ fgt t.fft.peak m = true) ∧
    ((∀ m ∈ t.mem.mag, isNaN m = true ∨ isZero m = true) →
      t.fft.peak = posZero ∧ t.fft.peakBand = 0)

/-- 60_exceptions.md R232, R233, R238, R239: the two transforms test the latch, then the length, then the
operand count; the first failing test is answered, structural faults are latched, nothing else is
written. -/
def Obligations.TransformFaultsInPriorityOrder : Prop :=
  ∀ (s : State) (i : Instr) (k want : Nat),
    ((∃ buffer, i = .fftFwd buffer ∧ k = buffer.length ∧ want = s.len) ∨
      (∃ src ops, i = .fftInv src ops ∧ k = ops.length ∧
        want = s.len * ((src[0]).toNat + (src[1]).toNat))) →
    (s.fft.err ≠ 0 →
      exec i s = .next { s with
        responses := s.responses ++ [{ status := .fftFault, words := [] }] }) ∧
    (s.fft.err = 0 → isPow2 s.len = false →
      exec i s = .next { s with
        fft := { s.fft with err := 1 }
        responses := s.responses ++ [{ status := .notPow2, words := [] }] }) ∧
    (s.fft.err = 0 → isPow2 s.len = true → k ≠ want →
      exec i s = .next { s with
        fft := { s.fft with err := 2 }
        responses := s.responses ++ [{ status := .length, words := [] }] })

/-- 41_fft.md R146, R147: the inverse completes on any sources, supplied or the engine's own: the
conjugated bit-reversed load goes through the network and the scaled real part is answered; no
architectural state is written, and the draws are the model's (log entry 2). -/
def Obligations.InverseAnswersTheTimeBuffer : Prop :=
  ∀ (s : State) (src : BitVec 2) (ops real imag : List F64), s.fft.err = 0 →
    isPow2 s.len = true → MemoryInv s.mem s.len →
    real.length = s.len → imag.length = s.len →
    ops = (if src[0] then real else []) ++ (if src[1] then imag else []) →
    (src[0] = false → real = s.mem.re) → (src[1] = false → imag = s.mem.im) →
    ∃ (wr wi : List F64) (out : List F64),
      wr.length = s.len ∧ wi.length = s.len ∧ out.length = s.len ∧
      (∀ i, i < s.len → wr[i]? = real[bitrev i (log2 s.len)]?) ∧
      (∀ i, i < s.len → wi[i]? = (imag[bitrev i (log2 s.len)]?).map (fneg s.draws)) ∧
      (∀ i, i < s.len → out[i]? =
        ((butterflies s.draws s.len s.mem.twcos s.mem.twsin { re := wr, im := wi }).re[i]?).map
          fun x => fmul s.draws x (fdiv s.draws one (i2f s.len))) ∧
      exec (.fftInv src ops) s = .next { s with
        responses := s.responses ++ [{ status := .ok, words := out }]
        draws := s.draws + 1 }

/-- 41_fft.md R147: a stored-source inverse repeated answers the same words, NaN patterns apart, and both
leave the spectral frame alone. -/
def Obligations.RepeatedInverseAnswersTheSame : Prop :=
  ∀ s : State, s.fft.err = 0 → isPow2 s.len = true → MemoryInv s.mem s.len →
    ∃ t u out out',
      exec (.fftInv 0 []) s = .next t ∧ exec (.fftInv 0 []) t = .next u ∧
      t.responses = s.responses ++ [{ status := .ok, words := out }] ∧
      u.responses = t.responses ++ [{ status := .ok, words := out' }] ∧
      List.Forall₂ (fun a b => sameUpToNaN a b = true) out out' ∧
      t.fft = s.fft ∧ t.mem = s.mem ∧ u.fft = s.fft ∧ u.mem = s.mem

/-- 41_fft.md R148: scaling by the reciprocal of a power of two is dividing by it, bit for bit. -/
def Obligations.ScalingIsExactDivision : Prop :=
  ∀ (d k : Nat) (x : F64), k ≤ 20 → isNaN x = false →
    fmul d x (fdiv d one (i2f (2 ^ k))) = fdiv d x (i2f (2 ^ k))

/-- 41_fft.md R150: with no fault latched every index is answered by the formula, whatever the length;
with a fault latched `E_FFTFAULT`; nothing is written but the draws (log entry 2). -/
def Obligations.BandFrequencyAnswersTheFormula : Prop :=
  ∀ (s : State) (idx : BitVec 24),
    (s.fft.err = 0 →
      exec (.fftBandf idx) s = .next { s with
        responses := s.responses ++ [{ status := .ok, words :=
          [fadd s.draws
            (fmul s.draws
              (fmul s.draws (fdiv s.draws two (i2f s.len)) (fdiv s.draws s.fft.fs two))
              (i2f idx.toNat))
            (fdiv s.draws
              (fmul s.draws (fdiv s.draws two (i2f s.len)) (fdiv s.draws s.fft.fs two)) two)] }]
        draws := s.draws + 1 }) ∧
    (s.fft.err ≠ 0 →
      exec (.fftBandf idx) s = .next { s with
        responses := s.responses ++ [{ status := .fftFault, words := [] }] })

/-! ### The read command -/

/-- 44_access.md R221, R222: an array element below the logical length is answered, at or past it and in
the reserved spaces `E_INDEX`; nothing else changes. -/
def Obligations.ReadAnswersElementsOrIndexFault : Prop :=
  ∀ (s : State) (space : BitVec 4) (idx : BitVec 20), MemoryInv s.mem s.len → space ≠ 15 →
    let count := if space = 2 ∨ space = 3 then s.len / 2
      else if space = 4 then (if isPow2 s.len then s.len else 0)
      else if space.toNat ≤ 6 then s.len else 0
    (idx.toNat < count →
      ∃ v, exec (.rd space idx) s = .next { s with
          responses := s.responses ++ [{ status := .ok, words := [v] }] } ∧
        (space = 0 → s.mem.re[idx.toNat]? = some v) ∧
        (space = 1 → s.mem.im[idx.toNat]? = some v) ∧
        (space = 2 → s.mem.mag[idx.toNat]? = some v) ∧
        (space = 3 → s.mem.phase[idx.toNat]? = some v) ∧
        (space = 4 → s.mem.rev[idx.toNat]? = some v.toNat) ∧
        (space = 5 → s.mem.twsin[idx.toNat]? = some v) ∧
        (space = 6 → s.mem.twcos[idx.toNat]? = some v)) ∧
    (count ≤ idx.toNat →
      exec (.rd space idx) s = .next { s with
        responses := s.responses ++ [{ status := .index, words := [] }] })

/-- 44_access.md R221, R222, 10_state.md R40: the 20 register numbers are answered, integers
zero-extended; any other number `E_INDEX`; nothing else changes, in every state. -/
def Obligations.ReadAnswersRegistersOrIndexFault : Prop :=
  ∀ (s : State) (idx : BitVec 20),
    (∀ v, (idx, v) ∈ csrMap s →
      exec (.rd 15 idx) s = .next { s with
        responses := s.responses ++ [{ status := .ok, words := [v] }] }) ∧
    ((∀ v, (idx, v) ∉ csrMap s) →
      exec (.rd 15 idx) s = .next { s with
        responses := s.responses ++ [{ status := .index, words := [] }] })

/-! ### The designer -/

/-- 42_biquad_designer.md R171, R172: each of the four parameters is the operand its present bit
announces, in the order f0, Q, gainDb, or its default; the sample rate is kept; the coefficients are
recomputed; nothing else changes but the draws, which are the model's (log entry 2). -/
def Obligations.SetStoresOperandsOrDefaults : Prop :=
  ∀ (s : State) (type pm : BitVec 4) (ops : List F64), (Instr.bqSet type pm ops).wf = true →
    ∃ p : BqParams,
      p.type = (if pm[0] then type else 0) ∧
      p.fs = s.par.fs ∧
      some p.f0 = (if pm[1] then ops[0]? else some (fdiv s.draws s.par.fs four)) ∧
      some p.q = (if pm[2] then ops[(pm[1]).toNat]? else some one) ∧
      some p.gain =
        (if pm[3] then ops[(pm[1]).toNat + (pm[2]).toNat]? else some posZero) ∧
      exec (.bqSet type pm ops) s = .next { s with
        par := p
        coef := design s.draws p
        responses := s.responses ++ [{ status := .ok, words := [] }]
        draws := s.draws + 1 }

/-- 42_biquad_designer.md R170, R173 to R178: each single setter stores its one parameter and recomputes;
`BQ.SETBW` stores `BW2Q` of its operand, `BQ_F0` and `BQ_FS` as `BQ_Q` (log entry 4); nothing else
changes but the draws (log entry 2). -/
def Obligations.SettersStoreAndRecompute : Prop :=
  ∀ (s : State) (i : Instr) (p : BqParams),
    ((∃ type, i = .bqSetType type ∧ p = { s.par with type := type }) ∨
      (∃ f0, i = .bqSetFreq f0 ∧ p = { s.par with f0 := f0 }) ∨
      (∃ q, i = .bqSetQ q ∧ p = { s.par with q := q }) ∨
      (∃ gain, i = .bqSetGain gain ∧ p = { s.par with gain := gain }) ∨
      (∃ bw, i = .bqSetBw bw ∧
        p = { s.par with q := unitBw2q s.draws bw s.par.f0 s.par.fs }) ∨
      (∃ fs, i = .bqSetFs fs ∧ p = { s.par with fs := fs })) →
    exec i s = .next { s with
      par := p
      coef := design s.draws p
      responses := s.responses ++ [{ status := .ok, words := [] }]
      draws := s.draws + 1 }

/-- 42_biquad_designer.md R179 to R190: `BQ.RECOMPUTE` completes and writes all six coefficients by the
row of the type code, from the intermediates of R179; nothing else changes but the draws (log entry
2). -/
def Obligations.RecomputeWritesTheRowOfTheType : Prop :=
  ∀ s : State,
    let d := s.draws
    let A := unitPow d 0x4024000000000000 (fdiv d s.par.gain 0x4044000000000000)
    let w0 := fdiv d (fmul d twoPi s.par.f0) s.par.fs
    let c := unitCos d w0
    let sn := unitSin d w0
    let al := fdiv d sn (fmul d two s.par.q)
    let sh := fmul d (fmul d two (fsqrt d A)) al
    let ap := fadd d A one
    let am := fsub d A one
    let row : Nat → Coeffs := fun type =>
      if type = 0 then
        { a0 := fadd d one al, a1 := fneg d (fmul d two c), a2 := fsub d one al
          b0 := fdiv d (fsub d one c) two, b1 := fsub d one c, b2 := fdiv d (fsub d one c) two }
      else if type = 1 then
        { a0 := fadd d one al, a1 := fneg d (fmul d two c), a2 := fsub d one al
          b0 := fdiv d (fadd d one c) two, b1 := fneg d (fadd d one c)
          b2 := fdiv d (fadd d one c) two }
      else if type = 2 then
        { a0 := fadd d one al, a1 := fneg d (fmul d two c), a2 := fsub d one al
          b0 := fdiv d sn two, b1 := posZero, b2 := fneg d (fdiv d sn two) }
      else if type = 3 then
        { a0 := fadd d one al, a1 := fneg d (fmul d two c), a2 := fsub d one al
          b0 := al, b1 := posZero, b2 := fneg d al }
      else if type = 4 then
        { a0 := fadd d one al, a1 := fneg d (fmul d two c), a2 := fsub d one al
          b0 := one, b1 := fneg d (fmul d two c), b2 := one }
      else if type = 5 then
        { a0 := fadd d one al, a1 := fneg d (fmul d two c), a2 := fsub d one al
          b0 := fsub d one al, b1 := fneg d (fmul d two c), b2 := fadd d one al }
      else if type = 6 then
        { a0 := fadd d one (fdiv d al A), a1 := fneg d (fmul d two c)
          a2 := fsub d one (fdiv d al A)
          b0 := fadd d one (fmul d al A), b1 := fneg d (fmul d two c)
          b2 := fsub d one (fmul d al A) }
      else if type = 7 then
        { a0 := fadd d (fadd d ap (fmul d am c)) sh
          a1 := fneg d (fmul d two (fadd d am (fmul d ap c)))
          a2 := fsub d (fadd d ap (fmul d am c)) sh
          b0 := fmul d A (fadd d (fsub d ap (fmul d am c)) sh)
          b1 := fmul d (fmul d two A) (fsub d am (fmul d ap c))
          b2 := fmul d A (fsub d (fsub d ap (fmul d am c)) sh) }
      else if type = 8 then
        { a0 := fadd d (fsub d ap (fmul d am c)) sh
          a1 := fmul d two (fsub d am (fmul d ap c))
          a2 := fsub d (fsub d ap (fmul d am c)) sh
          b0 := fmul d A (fadd d (fadd d ap (fmul d am c)) sh)
          b1 := fneg d (fmul d (fmul d two A) (fadd d am (fmul d ap c)))
          b2 := fmul d A (fsub d (fadd d ap (fmul d am c)) sh) }
      else { a0 := one, a1 := posZero, a2 := posZero, b0 := one, b1 := posZero, b2 := posZero }
    exec .bqRecompute s = .next { s with
      coef := row s.par.type.toNat
      responses := s.responses ++ [{ status := .ok, words := [] }]
      draws := s.draws + 1 }

/-- 42_biquad_designer.md R180 (D0's idempotence): a second recompute writes the same six coefficients,
NaN patterns apart, whatever stood in the registers before. -/
def Obligations.RecomputeIsIdempotentUpToNaN : Prop :=
  ∀ s : State, ∃ t u,
    exec .bqRecompute s = .next t ∧ exec .bqRecompute t = .next u ∧ u.par = s.par ∧
    sameUpToNaN t.coef.a0 u.coef.a0 = true ∧ sameUpToNaN t.coef.b0 u.coef.b0 = true ∧
    sameUpToNaN t.coef.b1 u.coef.b1 = true ∧ sameUpToNaN t.coef.b2 u.coef.b2 = true ∧
    sameUpToNaN t.coef.a1 u.coef.a1 = true ∧ sameUpToNaN t.coef.a2 u.coef.a2 = true

/-- 42_biquad_designer.md R181: halving is exact unless it underflows, so a value of at least 2^-1021
in magnitude comes back, and the lowpass has `B2 = B0` and `B1 = fmul(2.0, B0)`, NaN patterns apart. -/
def Obligations.DoublingUndoesHalving : Prop :=
  (∀ (d : Nat) (x : F64), isFinite x = true → 2 ^ 53 ≤ magBits x →
    fmul d two (fdiv d x two) = x) ∧
  ∀ (d : Nat) (p : BqParams), p.type = 0 →
    sameUpToNaN (design d p).b1 (fmul d two (design d p).b0) = true ∧
      (design d p).b2 = (design d p).b0

/-- 42_biquad_designer.md R187 with 40_numerics.md R113: a peaking filter at gain ±0 has its numerator
equal to its denominator, NaN patterns apart. -/
def Obligations.PeakingAtZeroGainIsUnity : Prop :=
  ∀ (d : Nat) (p : BqParams), p.type = 6 → isZero p.gain = true →
    sameUpToNaN (design d p).b0 (design d p).a0 = true ∧
    (design d p).b1 = (design d p).a1 ∧
    sameUpToNaN (design d p).b2 (design d p).a2 = true

/-- 42_biquad_designer.md R192: the gain changes the coefficients of types 6, 7, 8 only, and types 0 to
5 have one denominator. -/
def Obligations.GainAffectsOnlyPeakingAndShelves : Prop :=
  ∀ (d : Nat) (p : BqParams) (gain : F64) (type : BitVec 4),
    (p.type.toNat < 6 ∨ 9 ≤ p.type.toNat → design d { p with gain := gain } = design d p) ∧
    (p.type.toNat < 6 → type.toNat < 6 →
      (design d { p with type := type }).a0 = (design d p).a0 ∧
      (design d { p with type := type }).a1 = (design d p).a1 ∧
      (design d { p with type := type }).a2 = (design d p).a2)

/-- 42_biquad_designer.md R191: the six operand words are the six coefficients bit for bit, and nothing
else changes. -/
def Obligations.CoeffsInjectsTheOperands : Prop :=
  ∀ (s : State) (a0 b0 b1 b2 a1 a2 : F64),
    exec (.bqCoeffs a0 b0 b1 b2 a1 a2) s = .next { s with
      coef := { a0 := a0, b0 := b0, b1 := b1, b2 := b2, a1 := a1, a2 := a2 }
      responses := s.responses ++ [{ status := .ok, words := [] }] }

/-! ### The processor -/

/-- 43_biquad_processor.md R201, R202: one tick answers the recursion's output, shifts the history from
its old values, and changes nothing else but the draws (log entry 2). -/
def Obligations.TickAnswersTheRecursion : Prop :=
  ∀ (s : State) (x : F64),
    let d := s.draws
    let y := fsub d
      (fsub d
        (fadd d
          (fadd d (fmul d (fdiv d s.coef.b0 s.coef.a0) x)
            (fmul d (fdiv d s.coef.b1 s.coef.a0) s.hist.x1))
          (fmul d (fdiv d s.coef.b2 s.coef.a0) s.hist.x2))
        (fmul d (fdiv d s.coef.a1 s.coef.a0) s.hist.y1))
      (fmul d (fdiv d s.coef.a2 s.coef.a0) s.hist.y2)
    exec (.bqTick x) s = .next { s with
      hist := { x1 := x, x2 := s.hist.x1, y1 := y, y2 := s.hist.y1 }
      responses := s.responses ++ [{ status := .ok, words := [y] }]
      draws := s.draws + 1 }

/-- 43_biquad_processor.md R203: processing a buffer answers one word per sample, those of as many ticks
in the same order, and leaves the state the ticks leave, with one response for all. -/
def Obligations.ProcessIsATickPerSample : Prop :=
  ∀ (s : State) (xs : List F64), ∃ ys t,
    TicksTo s xs ys t ∧ ys.length = xs.length ∧
      exec (.bqProcess xs) s = .next { t with
        responses := s.responses ++ [{ status := .ok, words := ys }] }

/-- 43_biquad_processor.md R203: processing two buffers one after the other answers the words of, and
leaves the state of, processing their concatenation, the number of responses apart. -/
def Obligations.ProcessOfConcatenation : Prop :=
  ∀ (s : State) (xs ys : List F64), ∃ t u us vs,
    exec (.bqProcess xs) s = .next t ∧ exec (.bqProcess ys) t = .next u ∧
    t.responses = s.responses ++ [{ status := .ok, words := us }] ∧
    u.responses = t.responses ++ [{ status := .ok, words := vs }] ∧
    exec (.bqProcess (xs ++ ys)) s = .next { u with
      responses := s.responses ++ [{ status := .ok, words := us ++ vs }] }

/-- 43_biquad_processor.md R204: the four memory scalars are +0, and nothing else changes. -/
def Obligations.ClearZeroesTheHistory : Prop :=
  ∀ s : State,
    exec .bqClear s = .next { s with
      hist := { x1 := posZero, x2 := posZero, y1 := posZero, y2 := posZero }
      responses := s.responses ++ [{ status := .ok, words := [] }] }

/-- 43_biquad_processor.md R207: after a clear, four ticks of +0 answer four zeros, of either sign,
exactly when the five ratios are finite. -/
def Obligations.ClearedFilterAnswersZeros : Prop :=
  ∀ s : State, ∃ t u ys,
    exec .bqClear s = .next t ∧
    TicksTo t [posZero, posZero, posZero, posZero] ys u ∧
    ((∀ y ∈ ys, isZero y = true) ↔ FiniteRatios s.draws s.coef)

/-- 43_biquad_processor.md R205 (b): once the last output is a NaN, or the one before it, every later
output is a NaN, whatever the coefficients. -/
def Obligations.NaNOutputsAreSticky : Prop :=
  ∀ (s : State) (xs : List F64), isNaN s.hist.y1 = true ∨ isNaN s.hist.y2 = true →
    ∃ t ys, exec (.bqProcess xs) s = .next t ∧
      t.responses = s.responses ++ [{ status := .ok, words := ys }] ∧ ys.length = xs.length ∧
      ∀ y ∈ ys, isNaN y = true

/-- 42_biquad_designer.md R190: with an unknown type's coefficients and a finite history, a finite
sample comes back numerically unchanged. -/
def Obligations.PassThroughReturnsFiniteSamples : Prop :=
  ∀ (d d' : Nat) (p : BqParams) (h : History) (x : F64), 9 ≤ p.type.toNat →
    isFinite x = true → isFinite h.x1 = true → isFinite h.x2 = true →
    isFinite h.y1 = true → isFinite h.y2 = true →
    isFinite (tickOutput d' (design d p) h x) = true ∧
      signedUnits (tickOutput d' (design d p) h x) = signedUnits x

/-! ### Whole-machine rules -/

/-- 20_memory.md R61: the FFT commands neither write nor read the filter, and the filter's commands
neither write nor read the FFTEngine: over two states that differ only in the other unit they give
next states that differ only there, as before, and stop alike. -/
def Obligations.UnitsShareNothing : Prop :=
  (∀ (i : Instr) (s : State) (par : BqParams) (coef : Coeffs) (hist : History) (t : State),
    fftCommand i = true → exec i s = .next t →
      t.par = s.par ∧ t.coef = s.coef ∧ t.hist = s.hist ∧
      exec i { s with par := par, coef := coef, hist := hist } =
        .next { t with par := par, coef := coef, hist := hist }) ∧
  (∀ (i : Instr) (s : State) (par : BqParams) (coef : Coeffs) (hist : History) (r : Fault),
    fftCommand i = true → exec i s = .fault r →
      exec i { s with par := par, coef := coef, hist := hist } = .fault r) ∧
  (∀ (i : Instr) (s : State) (fft : FftRegs) (mem : Memory) (t : State),
    bqCommand i = true → exec i s = .next t →
      t.fft = s.fft ∧ t.mem = s.mem ∧
      exec i { s with fft := fft, mem := mem } = .next { t with fft := fft, mem := mem }) ∧
  (∀ (i : Instr) (s : State) (r : Fault), bqCommand i = true → exec i s ≠ .fault r)

/-- 10_state.md R43 (a), (b), (c), with the lengths of 20_memory.md R51 and the tables of 41_fft.md R131, R133:
they hold after reset. -/
def Obligations.InvariantHoldsAtReset : Prop :=
  Inv State.reset ∧ SpectrumOk State.reset ∧ DesignOk State.reset

/-- 10_state.md R43 (a), (b), (c), with the lengths of 20_memory.md R51 and the tables of 41_fft.md R131, R133:
every step keeps them. -/
def Obligations.EveryStepKeepsTheInvariant : Prop :=
  ∀ s t : State, Inv s → step s = .next t → Inv t

/-- 10_state.md R43 (d): a completed `FFT.FWD` makes `MAG`, `PHASE`, `PEAK`, `PEAKBAND` the functions of `RE`,
`IM`, and every command but `FFT.CFG` keeps them so. -/
def Obligations.SpectrumDescribesTheFrame : Prop :=
  (∀ (s t : State) (buffer : List F64), Inv s → s.fft.err = 0 → isPow2 s.len = true →
    buffer.length = s.len → exec (.fftFwd buffer) s = .next t → SpectrumOk t) ∧
  (∀ (s t : State) (i : Instr), Inv s → SpectrumOk s → (∀ n fs, i ≠ .fftCfg n fs) →
    exec i s = .next t → SpectrumOk t)

/-- 10_state.md R43 (e): a recomputing command makes the coefficients the recompute of the parameters, and
every command but `BQ.COEFFS` keeps them so. -/
def Obligations.CoefficientsAreTheRecompute : Prop :=
  (∀ (s t : State) (i : Instr), i.wf = true → recomputingCommand i = true →
    exec i s = .next t → DesignOk t) ∧
  (∀ (s t : State) (i : Instr), DesignOk s → (∀ a0 b0 b1 b2 a1 a2, i ≠ .bqCoeffs a0 b0 b1 b2 a1 a2) →
    exec i s = .next t → DesignOk t)

/-- 70_reset_and_hazards.md R266, 60_exceptions.md R230: every command terminates and answers in its response: from a
state of the invariant no step stops, and no command is refused in any state. Of `BQ.SETBW` it is the
model's choice to be given `BW2Q` and not to refuse (42_biquad_designer.md R177, log entry 4). -/
def Obligations.EveryStepGivesANextState : Prop :=
  (∀ s : State, Inv s → Safe (step s)) ∧
  (∀ (s : State) (i : Instr) (r : Refusal), exec i s ≠ .refused r)

/-- 30_encoding.md R73, 60_exceptions.md R246: a command answers exactly one response; its status is 0 with the
result words of R81, or one of the command's faults with no words. -/
def Obligations.EveryCommandAnswersOnce : Prop :=
  ∀ (s t : State) (i : Instr), Inv s → i.wf = true → exec i s = .next t →
    ∃ r : Response, t.responses = s.responses ++ [r] ∧
      ((r.status = .ok ∧ r.words.length = resultCountOf s.len i) ∨
        (r.status ∈ faultsOf i ∧ r.words = []))

/-- 60_exceptions.md R236, R243: a command that answers a non-zero status has changed nothing but, for
codes 1 and 2, `FFT_ERR`, which holds the code. -/
def Obligations.FaultsArePrecise : Prop :=
  ∀ (s t : State) (i : Instr) (e : Status), exec i s = .next t →
    t.responses = s.responses ++ [{ status := e, words := [] }] → e ≠ .ok →
    (e = .notPow2 ∨ e = .length → t = { s with
      fft := { s.fft with err := e.code }
      responses := s.responses ++ [{ status := e, words := [] }] }) ∧
    (e ≠ .notPow2 → e ≠ .length → t = { s with
      responses := s.responses ++ [{ status := e, words := [] }] })

/-- 10_state.md R26, 60_exceptions.md R238, R242: a latched fault keeps its first cause over every command but
`FFT.CFG`, and while it is latched the two transforms and the band query answer `E_FFTFAULT`. -/
def Obligations.LatchKeepsTheFirstFault : Prop :=
  ∀ (s t : State) (i : Instr), s.fft.err ≠ 0 → (∀ n fs, i ≠ .fftCfg n fs) →
    exec i s = .next t →
    t.fft.err = s.fft.err ∧
    ((∃ buffer, i = .fftFwd buffer) ∨ (∃ src ops, i = .fftInv src ops) ∨
      (∃ idx, i = .fftBandf idx) →
        t = { s with responses := s.responses ++ [{ status := .fftFault, words := [] }] })

/-- 10_state.md R42: the values after reset. -/
def Obligations.ResetLeavesTheStatedValues : Prop :=
  State.reset.fft = { n := 0, fs := posZero, err := 0, peak := posZero, peakBand := 0 } ∧
  State.reset.mem =
    { re := [], im := [], mag := [], phase := [], rev := [], twsin := [], twcos := [] } ∧
  State.reset.par =
    { type := 0, fs := 0x404E000000000000, f0 := 0x402E000000000000, q := 0x3FF0000000000000
      gain := posZero } ∧
  State.reset.coef = design Config.romDraw State.reset.par ∧
  State.reset.hist = { x1 := posZero, x2 := posZero, y1 := posZero, y2 := posZero } ∧
  State.reset.par.f0 = fdiv 0 State.reset.par.fs four

/-- 70_reset_and_hazards.md R260, R262, R270: a reset by the host, also in the middle of a command, gives the reset
state and no response; with no input sent the block keeps all state. That the host's pending inputs,
the responses given and the draws stay is the model's choice (log entry 8). -/
def Obligations.HostResetAndIdle : Prop :=
  ∀ (s : State) (abandoned : Option Packet) (rest : List HostInput),
    (s.inbox = .reset abandoned :: rest →
      step s = .next { State.reset with
        inbox := rest, responses := s.responses, draws := s.draws }) ∧
    (s.inbox = [] → step s = .next s)
end

