-- ==== Sys2Proof/Laws/Config.lean ====
section
/-! SUPPORT. The range of the open capacity (00_scope.md R7). -/

namespace Sys2Proof

/-- `N_MAX` is at least 2: `LOG2N_MAX` is at least 1. -/
theorem Config.two_le_nMax : 2 ≤ Config.nMax := by
  simpa [Config.nMax, Config.log2nMax] using
    Nat.pow_le_pow_right (n := 2) (by omega) (Nat.le_add_left 1 Config.log2nMaxPred.val)

/-- `N_MAX` is at most 2^20: `LOG2N_MAX` is at most 20. -/
theorem Config.nMax_le : Config.nMax ≤ 2 ^ 20 := by
  have h := Config.log2nMaxPred.isLt
  exact Nat.pow_le_pow_right (by omega) (by simp only [Config.log2nMax]; omega)

end Sys2Proof
end

