-- ==== Sys2Proof/Laws/Float.lean ====
section
/-! SUPPORT. The small laws of the arithmetic: produced NaNs, packing and the classes of a pattern. -/

namespace Sys2Proof.Machine

/-- A free value within a limit is of the class. -/
theorem limitTo_ok (ok : F64 → Bool) (member free : F64) (h : ok member = true) :
    ok (limitTo ok member free) = true := by
  unfold limitTo; split <;> assumption

@[simp] theorem isNaN_someNaN : isNaN someNaN = true := by decide +kernel

/-- Every produced NaN is a NaN, whatever the free value is. -/
@[simp] theorem isNaN_nanResult (draw : Nat) (op : FpOp) (a b : F64) :
    isNaN (nanResult draw op a b) = true :=
  limitTo_ok isNaN someNaN _ isNaN_someNaN

/-- The classes of `POW(10.0, y)`: an infinity, a positive normal, a positive subnormal or zero
(40_numerics.md R113). -/
theorem powTen_cases (y : F64) :
    (fgt powOverflowFrom y = false ∧ powTen y = posInf) ∨
    (fgt powOverflowFrom y = true ∧ fgt powNormalFrom y = false ∧ isPosNormal (powTen y) = true) ∨
    (fgt powNormalFrom y = true ∧ fgt powNonZeroFrom y = false ∧
      isPosSubnormal (powTen y) = true) ∨
    (fgt powNonZeroFrom y = true ∧ powTen y = posZero) := by
  have hn := limitTo_ok isPosNormal one (Config.powFn ten y) (by decide +kernel)
  have hs := limitTo_ok isPosSubnormal minSubnormal (Config.powFn ten y) (by decide +kernel)
  unfold powTen
  cases fgt powOverflowFrom y <;> cases fgt powNormalFrom y <;> cases fgt powNonZeroFrom y <;>
    simp [hn, hs]

@[simp] theorem sameUpToNaN_refl (a : F64) : sameUpToNaN a a = true := by
  simp [sameUpToNaN]

/-- A NaN operand makes a sum a NaN (40_numerics.md R105). -/
theorem isNaN_fadd_of_isNaN (draw : Nat) (a b : F64) (h : (isNaN a || isNaN b) = true) :
    isNaN (fadd draw a b) = true := by
  unfold fadd; rw [if_pos h]; exact isNaN_nanResult ..

/-- A NaN operand makes a product a NaN (40_numerics.md R105). -/
theorem isNaN_fmul_of_isNaN (draw : Nat) (a b : F64) (h : (isNaN a || isNaN b) = true) :
    isNaN (fmul draw a b) = true := by
  unfold fmul; rw [if_pos h]; exact isNaN_nanResult ..

/-- A NaN operand makes a quotient a NaN (40_numerics.md R105). -/
theorem isNaN_fdiv_of_isNaN (draw : Nat) (a b : F64) (h : (isNaN a || isNaN b) = true) :
    isNaN (fdiv draw a b) = true := by
  unfold fdiv; rw [if_pos h]; exact isNaN_nanResult ..

/-- The magnitude bits of a packed pattern are the ones packed. -/
theorem magBits_pack (s : Bool) (m : Nat) (h : m < 2 ^ 63) : magBits (pack s m) = m := by
  unfold magBits pack
  cases s <;> simp only [BitVec.toNat_ofNat, if_true, Bool.false_eq_true, if_false] <;> omega

/-- The sign of a packed pattern is the one packed. -/
theorem signBit_pack (s : Bool) (m : Nat) (h : m < 2 ^ 63) : signBit (pack s m) = s := by
  unfold signBit pack
  cases s <;> simp only [BitVec.msb_eq_decide, BitVec.toNat_ofNat, if_true, Bool.false_eq_true,
    if_false, decide_eq_true_eq, decide_eq_false_iff_not] <;> omega

/-- A rounded magnitude is at most an infinity. -/
theorem roundMag_le (num den : Nat) : roundMag num den ≤ infMag := by
  unfold roundMag; exact Nat.min_le_right _ _

end Sys2Proof.Machine
end

