-- ==== Sys2Proof/Laws/State.lean ====
section
/-! SUPPORT. What each field of the state is after each operation that updates it: one lemma per field
per update. -/

namespace Sys2Proof.Machine

/-! ### `respond` -/

@[simp] theorem State.respond_fft (s : State) (e : Status) (ws : List (BitVec 64)) :
    (s.respond e ws).fft = s.fft := rfl
@[simp] theorem State.respond_mem (s : State) (e : Status) (ws : List (BitVec 64)) :
    (s.respond e ws).mem = s.mem := rfl
@[simp] theorem State.respond_par (s : State) (e : Status) (ws : List (BitVec 64)) :
    (s.respond e ws).par = s.par := rfl
@[simp] theorem State.respond_coef (s : State) (e : Status) (ws : List (BitVec 64)) :
    (s.respond e ws).coef = s.coef := rfl
@[simp] theorem State.respond_hist (s : State) (e : Status) (ws : List (BitVec 64)) :
    (s.respond e ws).hist = s.hist := rfl
@[simp] theorem State.respond_inbox (s : State) (e : Status) (ws : List (BitVec 64)) :
    (s.respond e ws).inbox = s.inbox := rfl
@[simp] theorem State.respond_responses (s : State) (e : Status) (ws : List (BitVec 64)) :
    (s.respond e ws).responses = s.responses ++ [{ status := e, words := ws }] := rfl
@[simp] theorem State.respond_draws (s : State) (e : Status) (ws : List (BitVec 64)) :
    (s.respond e ws).draws = s.draws := rfl
@[simp] theorem State.respond_len (s : State) (e : Status) (ws : List (BitVec 64)) : (s.respond e ws).len = s.len := rfl

/-! ### `configure` -/

@[simp] theorem State.configure_fft (s : State) (n : BitVec 24) (fs : F64) :
    (s.configure n fs).fft = FftRegs.configured n fs := rfl
@[simp] theorem State.configure_mem (s : State) (n : BitVec 24) (fs : F64) :
    (s.configure n fs).mem = Memory.configured n.toNat := rfl
@[simp] theorem State.configure_par (s : State) (n : BitVec 24) (fs : F64) :
    (s.configure n fs).par = s.par := rfl
@[simp] theorem State.configure_coef (s : State) (n : BitVec 24) (fs : F64) :
    (s.configure n fs).coef = s.coef := rfl
@[simp] theorem State.configure_hist (s : State) (n : BitVec 24) (fs : F64) :
    (s.configure n fs).hist = s.hist := rfl
@[simp] theorem State.configure_inbox (s : State) (n : BitVec 24) (fs : F64) :
    (s.configure n fs).inbox = s.inbox := rfl
@[simp] theorem State.configure_responses (s : State) (n : BitVec 24) (fs : F64) :
    (s.configure n fs).responses = s.responses := rfl
@[simp] theorem State.configure_draws (s : State) (n : BitVec 24) (fs : F64) :
    (s.configure n fs).draws = s.draws := rfl

/-! ### `drawn` -/

@[simp] theorem State.drawn_fft (s : State) (k : Nat) :
    (s.drawn k).fft = s.fft := rfl
@[simp] theorem State.drawn_mem (s : State) (k : Nat) :
    (s.drawn k).mem = s.mem := rfl
@[simp] theorem State.drawn_par (s : State) (k : Nat) :
    (s.drawn k).par = s.par := rfl
@[simp] theorem State.drawn_coef (s : State) (k : Nat) :
    (s.drawn k).coef = s.coef := rfl
@[simp] theorem State.drawn_hist (s : State) (k : Nat) :
    (s.drawn k).hist = s.hist := rfl
@[simp] theorem State.drawn_inbox (s : State) (k : Nat) :
    (s.drawn k).inbox = s.inbox := rfl
@[simp] theorem State.drawn_responses (s : State) (k : Nat) :
    (s.drawn k).responses = s.responses := rfl
@[simp] theorem State.drawn_draws (s : State) (k : Nat) :
    (s.drawn k).draws = s.draws + k := rfl
@[simp] theorem State.drawn_len (s : State) (k : Nat) : (s.drawn k).len = s.len := rfl

/-! ### `recompute` -/

@[simp] theorem State.recompute_fft (s : State) :
    s.recompute.fft = s.fft := rfl
@[simp] theorem State.recompute_mem (s : State) :
    s.recompute.mem = s.mem := rfl
@[simp] theorem State.recompute_par (s : State) :
    s.recompute.par = s.par := rfl
@[simp] theorem State.recompute_coef (s : State) :
    s.recompute.coef = design s.draws s.par := rfl
@[simp] theorem State.recompute_hist (s : State) :
    s.recompute.hist = s.hist := rfl
@[simp] theorem State.recompute_inbox (s : State) :
    s.recompute.inbox = s.inbox := rfl
@[simp] theorem State.recompute_responses (s : State) :
    s.recompute.responses = s.responses := rfl
@[simp] theorem State.recompute_draws (s : State) :
    s.recompute.draws = s.draws + 1 := rfl
@[simp] theorem State.recompute_len (s : State) : s.recompute.len = s.len := rfl

/-! ### `withParams` -/

@[simp] theorem State.withParams_fft (s : State) (p : BqParams) :
    (s.withParams p).fft = s.fft := rfl
@[simp] theorem State.withParams_mem (s : State) (p : BqParams) :
    (s.withParams p).mem = s.mem := rfl
@[simp] theorem State.withParams_par (s : State) (p : BqParams) :
    (s.withParams p).par = p := rfl
@[simp] theorem State.withParams_coef (s : State) (p : BqParams) :
    (s.withParams p).coef = design s.draws p := rfl
@[simp] theorem State.withParams_hist (s : State) (p : BqParams) :
    (s.withParams p).hist = s.hist := rfl
@[simp] theorem State.withParams_inbox (s : State) (p : BqParams) :
    (s.withParams p).inbox = s.inbox := rfl
@[simp] theorem State.withParams_responses (s : State) (p : BqParams) :
    (s.withParams p).responses = s.responses := rfl
@[simp] theorem State.withParams_draws (s : State) (p : BqParams) :
    (s.withParams p).draws = s.draws + 1 := rfl
@[simp] theorem State.withParams_len (s : State) (p : BqParams) : (s.withParams p).len = s.len := rfl

/-! ### `withSpectrum` -/

@[simp] theorem State.withSpectrum_fft (s : State) (w : Wave) :
    (s.withSpectrum w).fft = 
      { s.fft with
        peak     := (peakOf (magnitudes s.draws s.len w)).value
        peakBand := BitVec.ofNat 24 (peakOf (magnitudes s.draws s.len w)).band } := rfl
@[simp] theorem State.withSpectrum_mem (s : State) (w : Wave) :
    (s.withSpectrum w).mem = 
      { s.mem with
        re := w.re, im := w.im
        mag := magnitudes s.draws s.len w, phase := phases s.draws s.len w } := rfl
@[simp] theorem State.withSpectrum_par (s : State) (w : Wave) :
    (s.withSpectrum w).par = s.par := rfl
@[simp] theorem State.withSpectrum_coef (s : State) (w : Wave) :
    (s.withSpectrum w).coef = s.coef := rfl
@[simp] theorem State.withSpectrum_hist (s : State) (w : Wave) :
    (s.withSpectrum w).hist = s.hist := rfl
@[simp] theorem State.withSpectrum_inbox (s : State) (w : Wave) :
    (s.withSpectrum w).inbox = s.inbox := rfl
@[simp] theorem State.withSpectrum_responses (s : State) (w : Wave) :
    (s.withSpectrum w).responses = s.responses := rfl
@[simp] theorem State.withSpectrum_draws (s : State) (w : Wave) :
    (s.withSpectrum w).draws = s.draws := rfl
@[simp] theorem State.withSpectrum_len (s : State) (w : Wave) : (s.withSpectrum w).len = s.len := rfl

/-! ### `ticked` -/

@[simp] theorem State.ticked_fft (s : State) (x : F64) :
    (s.ticked x).fft = s.fft := rfl
@[simp] theorem State.ticked_mem (s : State) (x : F64) :
    (s.ticked x).mem = s.mem := rfl
@[simp] theorem State.ticked_par (s : State) (x : F64) :
    (s.ticked x).par = s.par := rfl
@[simp] theorem State.ticked_coef (s : State) (x : F64) :
    (s.ticked x).coef = s.coef := rfl
@[simp] theorem State.ticked_hist (s : State) (x : F64) :
    (s.ticked x).hist = tickHistory s.draws s.coef s.hist x := rfl
@[simp] theorem State.ticked_inbox (s : State) (x : F64) :
    (s.ticked x).inbox = s.inbox := rfl
@[simp] theorem State.ticked_responses (s : State) (x : F64) :
    (s.ticked x).responses = s.responses := rfl
@[simp] theorem State.ticked_draws (s : State) (x : F64) :
    (s.ticked x).draws = s.draws + 1 := rfl
@[simp] theorem State.ticked_len (s : State) (x : F64) : (s.ticked x).len = s.len := rfl

/-! ### `processed` -/

@[simp] theorem State.processed_fft (s : State) (xs : List F64) :
    (s.processed xs).fft = s.fft := rfl
@[simp] theorem State.processed_mem (s : State) (xs : List F64) :
    (s.processed xs).mem = s.mem := rfl
@[simp] theorem State.processed_par (s : State) (xs : List F64) :
    (s.processed xs).par = s.par := rfl
@[simp] theorem State.processed_coef (s : State) (xs : List F64) :
    (s.processed xs).coef = s.coef := rfl
@[simp] theorem State.processed_hist (s : State) (xs : List F64) :
    (s.processed xs).hist = tickHistories s.draws s.coef s.hist xs := rfl
@[simp] theorem State.processed_inbox (s : State) (xs : List F64) :
    (s.processed xs).inbox = s.inbox := rfl
@[simp] theorem State.processed_responses (s : State) (xs : List F64) :
    (s.processed xs).responses = s.responses := rfl
@[simp] theorem State.processed_draws (s : State) (xs : List F64) :
    (s.processed xs).draws = s.draws + xs.length := rfl
@[simp] theorem State.processed_len (s : State) (xs : List F64) : (s.processed xs).len = s.len := rfl

/-! ### `hostReset` -/

@[simp] theorem State.hostReset_fft (s : State) :
    s.hostReset.fft = FftRegs.reset := rfl
@[simp] theorem State.hostReset_mem (s : State) :
    s.hostReset.mem = Memory.reset := rfl
@[simp] theorem State.hostReset_par (s : State) :
    s.hostReset.par = resetParams := rfl
@[simp] theorem State.hostReset_coef (s : State) :
    s.hostReset.coef = design Config.romDraw resetParams := rfl
@[simp] theorem State.hostReset_hist (s : State) :
    s.hostReset.hist = History.zero := rfl
@[simp] theorem State.hostReset_inbox (s : State) :
    s.hostReset.inbox = s.inbox := rfl
@[simp] theorem State.hostReset_responses (s : State) :
    s.hostReset.responses = s.responses := rfl
@[simp] theorem State.hostReset_draws (s : State) :
    s.hostReset.draws = s.draws := rfl

/-! ### `withNextPacket` -/

@[simp] theorem State.withNextPacket_fft (s : State) (p : Packet) :
    (s.withNextPacket p).fft = s.fft := rfl
@[simp] theorem State.withNextPacket_mem (s : State) (p : Packet) :
    (s.withNextPacket p).mem = s.mem := rfl
@[simp] theorem State.withNextPacket_par (s : State) (p : Packet) :
    (s.withNextPacket p).par = s.par := rfl
@[simp] theorem State.withNextPacket_coef (s : State) (p : Packet) :
    (s.withNextPacket p).coef = s.coef := rfl
@[simp] theorem State.withNextPacket_hist (s : State) (p : Packet) :
    (s.withNextPacket p).hist = s.hist := rfl
@[simp] theorem State.withNextPacket_inbox (s : State) (p : Packet) :
    (s.withNextPacket p).inbox = .packet p :: s.inbox := rfl
@[simp] theorem State.withNextPacket_responses (s : State) (p : Packet) :
    (s.withNextPacket p).responses = s.responses := rfl
@[simp] theorem State.withNextPacket_draws (s : State) (p : Packet) :
    (s.withNextPacket p).draws = s.draws := rfl
@[simp] theorem State.withNextPacket_len (s : State) (p : Packet) : (s.withNextPacket p).len = s.len := rfl

/-! ### `latch` -/

@[simp] theorem State.latch_mem (s : State) (e : Status) :
    (s.latch e).mem = s.mem := by
  unfold State.latch; split <;> rfl
@[simp] theorem State.latch_par (s : State) (e : Status) :
    (s.latch e).par = s.par := by
  unfold State.latch; split <;> rfl
@[simp] theorem State.latch_coef (s : State) (e : Status) :
    (s.latch e).coef = s.coef := by
  unfold State.latch; split <;> rfl
@[simp] theorem State.latch_hist (s : State) (e : Status) :
    (s.latch e).hist = s.hist := by
  unfold State.latch; split <;> rfl
@[simp] theorem State.latch_inbox (s : State) (e : Status) :
    (s.latch e).inbox = s.inbox := by
  unfold State.latch; split <;> rfl
@[simp] theorem State.latch_responses (s : State) (e : Status) :
    (s.latch e).responses = s.responses := by
  unfold State.latch; split <;> rfl
@[simp] theorem State.latch_draws (s : State) (e : Status) :
    (s.latch e).draws = s.draws := by
  unfold State.latch; split <;> rfl
@[simp] theorem State.latch_fft (s : State) (e : Status) :
    (s.latch e).fft = if latchedStatus e then { s.fft with err := e.code } else s.fft := by
  unfold State.latch; split <;> rfl
@[simp] theorem State.latch_len (s : State) (e : Status) : (s.latch e).len = s.len := by
  unfold State.latch; split <;> rfl

end Sys2Proof.Machine
end

