-- ==== Sys2Proof/Laws/Memory.lean ====
section
/-! SUPPORT. The arrays keep their canonical form: every operation that writes them leaves each array
at its logical length (20_memory.md R51). -/

namespace Sys2Proof.Machine

/-! ### Bit reversal -/

theorem bitrev_lt (i n : Nat) : bitrev i n < 2 ^ n := by
  induction n generalizing i with
  | zero => simp [bitrev]
  | succ n ih =>
    have h := ih (i / 2)
    have hb : i % 2 * 2 ^ n ≤ 1 * 2 ^ n := Nat.mul_le_mul_right _ (by omega)
    rw [bitrev, Nat.pow_succ]
    omega

theorem pow_log2_le (n : Nat) (h : isPow2 n = true) : 2 ^ log2 n ≤ n := by
  have hn : n ≠ 0 := by
    rintro rfl
    exact absurd h (by decide)
  exact Nat.log2_self_le hn

@[simp] theorem revTable_length (n : Nat) : (revTable n).length = revLen n := by
  unfold revTable revLen; split <;> simp

theorem revTable_lt (n x : Nat) (h : x ∈ revTable n) : x < n := by
  unfold revTable at h
  split at h
  · obtain ⟨i, -, rfl⟩ := List.mem_map.mp h
    exact Nat.lt_of_lt_of_le (bitrev_lt i _) (pow_log2_le n ‹_›)
  · simp at h

@[simp] theorem sinTable_length (n : Nat) : (sinTable n).length = n := by simp [sinTable]

@[simp] theorem cosTable_length (n : Nat) : (cosTable n).length = n := by simp [cosTable]

/-! ### The network keeps the lengths -/

@[simp] theorem put_re_length (w : Wave) (i : Nat) (c : Cplx) :
    (w.put i c).re.length = w.re.length := by simp [Wave.put]

@[simp] theorem put_im_length (w : Wave) (i : Nat) (c : Cplx) :
    (w.put i c).im.length = w.im.length := by simp [Wave.put]

@[simp] theorem butterfly_re_length (draw h : Nat) (p : Cplx) (i : Nat) (w : Wave) :
    (butterfly draw h p i w).re.length = w.re.length := by simp [butterfly]

@[simp] theorem butterfly_im_length (draw h : Nat) (p : Cplx) (i : Nat) (w : Wave) :
    (butterfly draw h p i w).im.length = w.im.length := by simp [butterfly]

@[simp] theorem groupWalk_length (draw h : Nat) (p : Cplx) (k i : Nat) (w : Wave) :
    (groupWalk draw h p k i w).re.length = w.re.length ∧
      (groupWalk draw h p k i w).im.length = w.im.length := by
  induction k generalizing i w with
  | zero => exact ⟨rfl, rfl⟩
  | succ k ih => simpa [groupWalk] using ih (i + 2 * h) (butterfly draw h p i w)

@[simp] theorem stageGroups_length (draw n h : Nat) (s : Cplx) (k g : Nat) (p : Cplx) (w : Wave) :
    (stageGroups draw n h s k g p w).re.length = w.re.length ∧
      (stageGroups draw n h s k g p w).im.length = w.im.length := by
  induction k generalizing g p w with
  | zero => exact ⟨rfl, rfl⟩
  | succ k ih =>
    have := ih (g + 1) (advance draw p s) (groupWalk draw h p (n / (2 * h)) g w)
    simpa [stageGroups] using this

@[simp] theorem stage_length (draw n : Nat) (c s : List F64) (h : Nat) (w : Wave) :
    (stage draw n c s h w).re.length = w.re.length ∧
      (stage draw n c s h w).im.length = w.im.length :=
  stageGroups_length ..

theorem stages_length (draw n : Nat) (c s : List F64) (k h : Nat) (w : Wave) :
    (stages draw n c s k h w).re.length = w.re.length ∧
      (stages draw n c s k h w).im.length = w.im.length := by
  induction k generalizing h w with
  | zero => exact ⟨rfl, rfl⟩
  | succ k ih => simpa [stages] using ih (2 * h) (stage draw n c s h w)

theorem butterflies_length (draw n : Nat) (c s : List F64) (w : Wave) :
    (butterflies draw n c s w).re.length = w.re.length ∧
      (butterflies draw n c s w).im.length = w.im.length :=
  stages_length ..

/-! ### The canonical form -/

/-- `Memory.wf` as the list of its eight conditions. -/
theorem Memory.wf_iff (m : Memory) (n : Nat) :
    m.wf n = true ↔
      m.re.length = n ∧ m.im.length = n ∧ m.mag.length = n / 2 ∧ m.phase.length = n / 2 ∧
        m.rev.length = revLen n ∧ (∀ x ∈ m.rev, x < n) ∧ m.twsin.length = n ∧
        m.twcos.length = n := by
  simp [Memory.wf, and_assoc]

/-- The arrays after reset have the canonical form. -/
theorem Memory.reset_wf : Memory.reset.wf 0 = true := by decide

/-- The arrays `FFT.CFG` leaves have the canonical form. -/
theorem Memory.configured_wf (n : Nat) : (Memory.configured n).wf n = true := by
  rw [Memory.wf_iff]
  simp only [Memory.configured, List.length_replicate, revTable_length, sinTable_length,
    cosTable_length, true_and, and_true]
  exact fun x hx => revTable_lt n x hx

/-- The wave of `FFT.FWD` has the transform length. -/
theorem forwardWave_length (buffer : List F64) (s : State) (h : s.mem.wf s.len = true)
    (hp : isPow2 s.len = true) :
    (forwardWave buffer s).re.length = s.len ∧ (forwardWave buffer s).im.length = s.len := by
  have hl := butterflies_length s.draws s.len s.mem.twcos s.mem.twsin
    { re := bitReversed s.mem.rev buffer, im := List.replicate s.len posZero }
  rw [Memory.wf_iff] at h
  have hr : s.mem.rev.length = s.len := by rw [h.2.2.2.2.1, revLen, if_pos hp]
  simpa [forwardWave, bitReversed, hr] using hl

/-- `SPECTRUM()` of a wave of the transform length keeps the canonical form. -/
theorem State.withSpectrum_wf (s : State) (w : Wave) (h : s.mem.wf s.len = true)
    (hre : w.re.length = s.len) (him : w.im.length = s.len) :
    (s.withSpectrum w).mem.wf s.len = true := by
  rw [Memory.wf_iff] at h ⊢
  simp only [State.withSpectrum_mem, hre, him, magnitudes, phases, List.length_map,
    List.length_range, true_and]
  exact h.2.2.2.2

/-- `FFT.FWD` keeps the canonical form. -/
theorem State.forward_wf (s : State) (buffer : List F64) (h : s.mem.wf s.len = true)
    (hp : isPow2 s.len = true) : (s.forward buffer).mem.wf s.len = true :=
  s.withSpectrum_wf _ h (forwardWave_length buffer s h hp).1 (forwardWave_length buffer s h hp).2

/-- In the canonical form every element below the logical length of an array space exists. -/
theorem Memory.read_isSome (m : Memory) (n : Nat) (space : BitVec 4) (i : Nat)
    (h : m.wf n = true) (hi : i < spaceLen space n) : (m.read space i).isSome = true := by
  rw [Memory.wf_iff] at h
  obtain ⟨h0, h1, h2, h3, h4, -, h5, h6⟩ := h
  unfold spaceLen at hi
  unfold Memory.read
  split at hi <;> simp_all

end Sys2Proof.Machine
end

