-- ==== Sys2Proof/Laws/Ops.lean ====
section
/-! SUPPORT. What each shared operation can do, said once. -/

namespace Sys2Proof.Machine

/-- Completing answers status 0 and the words, in a next state. -/
theorem answer_eq (ws : List (BitVec 64)) (s : State) :
    answer ws s = .next (s.respond .ok ws) := rfl

/-- An exception is a next state: the latch, then the status with no words. -/
theorem raise_eq (e : Status) (s : State) : raise e s = .next ((s.latch e).respond e []) := rfl

/-- A status that is not latched leaves the latch alone. -/
theorem State.latch_of_not_latched (s : State) (e : Status) (h : latchedStatus e = false) :
    s.latch e = s := by
  simp [State.latch, h]

/-- A latched status stores its code. -/
theorem State.latch_of_latched (s : State) (e : Status) (h : latchedStatus e = true) :
    s.latch e = { s with fft := { s.fft with err := e.code } } := by
  simp [State.latch, h]

/-- Every check of a transform passes exactly when nothing is latched, the length is a power of two
and the operand count fits. -/
theorem transformFault_none_iff (s : State) (k want : Nat) :
    transformFault s k want = none ↔
      s.faulted = false ∧ isPow2 s.len = true ∧ k = want := by
  unfold transformFault
  cases s.faulted <;> cases isPow2 s.len <;> by_cases h : k = want <;> simp [h]

/-- The fault of a transform is one of three, each with its cause (60_exceptions.md R239). -/
theorem transformFault_cases (s : State) (k want : Nat) (e : Status)
    (h : transformFault s k want = some e) :
    (e = .fftFault ∧ s.faulted = true) ∨
    (e = .notPow2 ∧ s.faulted = false ∧ isPow2 s.len = false) ∨
    (e = .length ∧ s.faulted = false ∧ isPow2 s.len = true ∧ k ≠ want) := by
  unfold transformFault at h
  cases hf : s.faulted <;> cases hp : isPow2 s.len <;> by_cases hk : k = want <;>
    simp_all

/-- What a step can do: idle, reset, or run the next packet. -/
theorem step_cases (s : State) :
    (s.inbox = [] ∧ step s = .next s) ∨
    (∃ a rest, s.inbox = .reset a :: rest ∧
      step s = .next (State.hostReset { s with inbox := rest })) ∨
    (∃ p rest, s.inbox = .packet p :: rest ∧ step s = runPacket p { s with inbox := rest }) := by
  unfold step State.nextInput
  match h : s.inbox with
  | [] => exact .inl ⟨rfl, rfl⟩
  | .reset a :: rest => exact .inr (.inl ⟨a, rest, rfl, rfl⟩)
  | .packet p :: rest => exact .inr (.inr ⟨p, rest, rfl, rfl⟩)

/-- What one packet can do: its command, or `E_ILLEGAL`. -/
theorem runPacket_cases (p : Packet) (s : State) :
    (∃ i, decode p = .ok i ∧ runPacket p s = exec i s) ∨
    (∃ e, decode p = .error e ∧ runPacket p s = raise .illegal s) := by
  unfold runPacket
  match h : decode p with
  | .ok i => exact .inl ⟨i, rfl, rfl⟩
  | .error e => exact .inr ⟨e, rfl, rfl⟩

end Sys2Proof.Machine
end

