-- ==== Sys2Proof/Laws/PerInstr.lean ====
section
/-! SUPPORT. Per command: its command word selects its own row of the opcode table, `(w & mask) ==
match` (30_encoding.md R88). -/

namespace Sys2Proof.Laws.TableRow

/-- The command's word selects the row of its opcode. -/
def Statement (i : Instr) : Prop := (encode i).cw &&& i.op.mask = i.op.matchWord

/-- A word of an opcode selects the opcode's row where its low field has the zero fields zero. -/
theorem of_low (op : Op) (f : BitVec 24) (h : f &&& op.zeroMask = 0) :
    (op.code ++ f : CmdWord) &&& op.mask = op.matchWord := by
  unfold Op.mask Op.matchWord
  have := BitVec.and_append (x₁ := op.code) (x₂ := 0xFF#8) (y₁ := f) (y₂ := op.zeroMask)
  rw [this, h]
  cases op <;> rfl

theorem rd (space : BitVec 4) (idx : BitVec 20) : Statement (.rd space idx) :=
  of_low .rd (Instr.rd space idx).low BitVec.and_zero
theorem fftCfg (n : BitVec 24) (fs : F64) : Statement (.fftCfg n fs) :=
  of_low .fftCfg (Instr.fftCfg n fs).low BitVec.and_zero
theorem fftFwd (buffer : List F64) : Statement (.fftFwd buffer) :=
  of_low .fftFwd 0 BitVec.zero_and
theorem fftInv (src : BitVec 2) (ops : List F64) : Statement (.fftInv src ops) :=
  of_low .fftInv (0#22 ++ src) (by revert src; decide)
theorem fftBandf (idx : BitVec 24) : Statement (.fftBandf idx) :=
  of_low .fftBandf idx BitVec.and_zero
theorem bqSet (type pm : BitVec 4) (ops : List F64) : Statement (.bqSet type pm ops) :=
  of_low .bqSet (0#16 ++ (pm ++ type)) (by revert type pm; decide)
theorem bqSetType (type : BitVec 4) : Statement (.bqSetType type) :=
  of_low .bqSetType (0#20 ++ type) (by revert type; decide)
theorem bqSetFreq (f0 : F64) : Statement (.bqSetFreq f0) := of_low .bqSetFreq 0 BitVec.zero_and
theorem bqSetQ (q : F64) : Statement (.bqSetQ q) := of_low .bqSetQ 0 BitVec.zero_and
theorem bqSetGain (gain : F64) : Statement (.bqSetGain gain) := of_low .bqSetGain 0 BitVec.zero_and
theorem bqSetBw (bw : F64) : Statement (.bqSetBw bw) := of_low .bqSetBw 0 BitVec.zero_and
theorem bqSetFs (fs : F64) : Statement (.bqSetFs fs) := of_low .bqSetFs 0 BitVec.zero_and
theorem bqRecompute : Statement .bqRecompute := of_low .bqRecompute 0 BitVec.zero_and
theorem bqCoeffs (a0 b0 b1 b2 a1 a2 : F64) : Statement (.bqCoeffs a0 b0 b1 b2 a1 a2) :=
  of_low .bqCoeffs 0 BitVec.zero_and
theorem bqTick (x : F64) : Statement (.bqTick x) := of_low .bqTick 0 BitVec.zero_and
theorem bqProcess (buffer : List F64) : Statement (.bqProcess buffer) :=
  of_low .bqProcess 0 BitVec.zero_and
theorem bqClear : Statement .bqClear := of_low .bqClear 0 BitVec.zero_and

end Sys2Proof.Laws.TableRow
end

