-- ==== Sys2Proof/Machine/Assembler.lean ====
section
/-! DEFINITION. The written form of commands and responses: mnemonics, type names and aliases, register
names, pseudo-commands (30_encoding.md R81, R82, R86, R87). No step reads this file. -/

namespace Sys2Proof.Machine

/-- The mnemonic of an opcode (30_encoding.md R81). -/
def mnemonicOf : Op → String
  | .rd          => "RD"
  | .fftCfg      => "FFT.CFG"
  | .fftFwd      => "FFT.FWD"
  | .fftInv      => "FFT.INV"
  | .fftBandf    => "FFT.BANDF"
  | .bqSet       => "BQ.SET"
  | .bqSetType   => "BQ.SETTYPE"
  | .bqSetFreq   => "BQ.SETFREQ"
  | .bqSetQ      => "BQ.SETQ"
  | .bqSetGain   => "BQ.SETGAIN"
  | .bqSetBw     => "BQ.SETBW"
  | .bqSetFs     => "BQ.SETFS"
  | .bqRecompute => "BQ.RECOMPUTE"
  | .bqCoeffs    => "BQ.COEFFS"
  | .bqTick      => "BQ.TICK"
  | .bqProcess   => "BQ.PROCESS"
  | .bqClear     => "BQ.CLEAR"

/-- The names of the type codes 0 to 8, the canonical name first (30_encoding.md R82). -/
def typeNames : List (BitVec 4 × List String) :=
  [(0, ["lowpass", "LPF"]),
   (1, ["highpass", "HPF"]),
   (2, ["bandpass", "BPF"]),
   (3, ["resonant", "BPF0"]),
   (4, ["notch", "bandreject", "bandstop"]),
   (5, ["allpass", "APF"]),
   (6, ["peakingEQ", "peaknotch"]),
   (7, ["lowShelf"]),
   (8, ["highShelf"])]

/-- The type code of a name or alias (30_encoding.md R82). -/
def typeCode (name : String) : Option (BitVec 4) :=
  (typeNames.find? fun row => row.2.contains name).map (·.1)

/-- The register numbers by name (10_state.md R40). -/
def csrNames : List (String × BitVec 20) :=
  [("FFT_N", 0x00), ("FFT_FS", 0x01), ("FFT_ERR", 0x02), ("PEAK", 0x03), ("PEAKBAND", 0x04),
   ("BQ_TYPE", 0x10), ("BQ_FS", 0x11), ("BQ_F0", 0x12), ("BQ_Q", 0x13), ("BQ_GAIN", 0x14),
   ("A0", 0x18), ("B0", 0x19), ("B1", 0x1A), ("B2", 0x1B), ("A1", 0x1C), ("A2", 0x1D),
   ("X1", 0x20), ("X2", 0x21), ("Y1", 0x22), ("Y2", 0x23)]

/-! ### Pseudo-commands (30_encoding.md R87) -/

/-- `FFT.INV` with no field and no operand. -/
def pseudoInv : Instr := .fftInv 0 []
/-- `FFT.INVX ; [real], [imag]`. -/
def pseudoInvx (real imag : List F64) : Instr := .fftInv 3 (real ++ imag)
/-- `RD.RE i`. -/
def pseudoRdRe (i : BitVec 20) : Instr := .rd 0 i
/-- `RD.IM i`. -/
def pseudoRdIm (i : BitVec 20) : Instr := .rd 1 i
/-- `RD.MAG i`. -/
def pseudoRdMag (i : BitVec 20) : Instr := .rd 2 i
/-- `RD.PHASE i`. -/
def pseudoRdPhase (i : BitVec 20) : Instr := .rd 3 i
/-- `RD.REV i`. -/
def pseudoRdRev (i : BitVec 20) : Instr := .rd 4 i
/-- `RD.TWSIN i`. -/
def pseudoRdTwsin (i : BitVec 20) : Instr := .rd 5 i
/-- `RD.TWCOS i`. -/
def pseudoRdTwcos (i : BitVec 20) : Instr := .rd 6 i
/-- `RD.CSR name`; none where no register has the name. -/
def pseudoRdCsr (name : String) : Option Instr :=
  ((csrNames.find? fun row => row.1 == name).map (·.2)).map (.rd 15)
/-- `BQ.SET type ; f0, Q, gainDb`. -/
def pseudoSetAll (type : BitVec 4) (f0 q gain : F64) : Instr := .bqSet type 0xF [f0, q, gain]
/-- `BQ.SET` with nothing written. -/
def pseudoSetDefaults : Instr := .bqSet 0 0 []

/-! ### Text (30_encoding.md R86), numbers as patterns -/

/-- A number as `0x...`. -/
def hexText (n : Nat) : String := "0x" ++ String.ofList (Nat.toDigits 16 n)

/-- Texts with ", " between them. -/
def commaText : List String → String
  | []           => ""
  | [a]          => a
  | a :: b :: cs => a ++ ", " ++ commaText (b :: cs)

/-- The command-word fields in the order of 30_encoding.md R86. -/
def fieldTexts : Instr → List String
  | .rd space idx         => [hexText space.toNat, hexText idx.toNat]
  | .fftCfg n _           => [hexText n.toNat]
  | .fftFwd _             => []
  | .fftInv src _         => [hexText src.toNat]
  | .fftBandf idx         => [hexText idx.toNat]
  | .bqSet type pm _      => [hexText type.toNat, hexText pm.toNat]
  | .bqSetType type       => [hexText type.toNat]
  | .bqSetFreq _          => []
  | .bqSetQ _             => []
  | .bqSetGain _          => []
  | .bqSetBw _            => []
  | .bqSetFs _            => []
  | .bqRecompute          => []
  | .bqCoeffs _ _ _ _ _ _ => []
  | .bqTick _             => []
  | .bqProcess _          => []
  | .bqClear              => []

/-- The written command: mnemonic, fields, and after a semicolon the operand words. -/
def commandText (i : Instr) : String :=
  mnemonicOf i.op ++ " " ++ commaText (fieldTexts i) ++ " ; "
    ++ commaText (i.operands.map fun w => hexText w.toNat)

/-- The written response: `-> STATUS ; result, result`. -/
def responseText (r : Response) : String :=
  "-> " ++ hexText r.status.code.toNat ++ " ; " ++ commaText (r.words.map fun w => hexText w.toNat)

end Sys2Proof.Machine
end

