-- ==== Sys2Proof/Tests/Slice0.lean ====
section
/-! SUPPORT. Tests against the words and vectors of spec/, and for every statement with hypotheses a
witness that meets them. Expected results are those of 95_test_vectors.md (V-...). -/

namespace Sys2Proof.Tests

open Sys2Proof Sys2Proof.Machine

set_option Elab.async false

/-! ### Well-formedness: one ill-formed term for each check -/

theorem test_wf_set_accepts : (Instr.bqSet 5 0xF [1, 2, 3]).wf = true := by decide

/-- 30_encoding.md R85 (c), V-E13. -/
theorem test_wf_type_without_present : (Instr.bqSet 5 0 []).wf = false := by decide

/-- 30_encoding.md R85 (d), V-E11. -/
theorem test_wf_operand_count : (Instr.bqSet 5 0xF [1, 2]).wf = false := by decide

/-! ### Decoding: a word of every constructor, written from the formats of 30_encoding.md R74 to R80 -/

theorem test_decode_rd : decode ⟨0x01F00022, []⟩ = .ok (.rd 15 0x22) := by rfl
theorem test_decode_fft_cfg : decode ⟨0x10000400, [7]⟩ = .ok (.fftCfg 1024 7) := by rfl
theorem test_decode_fft_fwd : decode ⟨0x11000000, [7, 8]⟩ = .ok (.fftFwd [7, 8]) := by rfl
theorem test_decode_fft_inv : decode ⟨0x12000002, [7]⟩ = .ok (.fftInv 2 [7]) := by rfl
theorem test_decode_fft_bandf : decode ⟨0x13FFFFFF, []⟩ = .ok (.fftBandf 16777215) := by rfl
theorem test_decode_bq_set : decode ⟨0x20000096, [7]⟩ = .ok (.bqSet 6 9 [7]) := by rfl
theorem test_decode_bq_settype : decode ⟨0x21000008, []⟩ = .ok (.bqSetType 8) := by rfl
theorem test_decode_bq_setfreq : decode ⟨0x22000000, [7]⟩ = .ok (.bqSetFreq 7) := by rfl
theorem test_decode_bq_setq : decode ⟨0x23000000, [7]⟩ = .ok (.bqSetQ 7) := by rfl
theorem test_decode_bq_setgain : decode ⟨0x24000000, [7]⟩ = .ok (.bqSetGain 7) := by rfl
theorem test_decode_bq_setbw : decode ⟨0x25000000, [7]⟩ = .ok (.bqSetBw 7) := by rfl
theorem test_decode_bq_setfs : decode ⟨0x26000000, [7]⟩ = .ok (.bqSetFs 7) := by rfl
theorem test_decode_bq_recompute : decode ⟨0x27000000, []⟩ = .ok .bqRecompute := by rfl
theorem test_decode_bq_coeffs :
    decode ⟨0x28000000, [1, 2, 3, 4, 5, 6]⟩ = .ok (.bqCoeffs 1 2 3 4 5 6) := by rfl
theorem test_decode_bq_tick : decode ⟨0x30000000, [7]⟩ = .ok (.bqTick 7) := by rfl
theorem test_decode_bq_process : decode ⟨0x31000000, []⟩ = .ok (.bqProcess []) := by rfl
theorem test_decode_bq_clear : decode ⟨0x32000000, []⟩ = .ok .bqClear := by rfl

/-! Illegal packets: V-E2, V-E5, V-E7, V-E13, V-E16, V-E18, V-E21, V-E32, V-E35, V-E37. -/

theorem test_reject_cfg_count : decode ⟨0x10000008, []⟩ = .error .operandCount := by rfl
theorem test_reject_fwd_field : decode ⟨0x11000001, []⟩ = .error .nonZeroField := by rfl
theorem test_reject_inv_field : decode ⟨0x12000004, []⟩ = .error .nonZeroField := by rfl
theorem test_reject_set_type : decode ⟨0x20000005, []⟩ = .error .typeWithoutPresent := by rfl
theorem test_reject_set_field : decode ⟨0x20000100, []⟩ = .error .nonZeroField := by rfl
theorem test_reject_settype_pm : decode ⟨0x21000018, []⟩ = .error .nonZeroField := by rfl
theorem test_reject_setfreq_count : decode ⟨0x22000000, [1, 2]⟩ = .error .operandCount := by rfl
theorem test_reject_rd_count : decode ⟨0x01F00004, [1]⟩ = .error .operandCount := by rfl
theorem test_reject_opcode_29 : decode ⟨0x29000000, []⟩ = .error .unassignedOpcode := by rfl
theorem test_reject_opcode_ff : decode ⟨0xFFFFFFFF, []⟩ = .error .unassignedOpcode := by rfl

/-- 30_encoding.md R88: no two rows of the opcode table match one word. -/
theorem test_rows_disjoint :
    Op.all.Pairwise fun a b => a.mask &&& b.mask &&& (a.matchWord ^^^ b.matchWord) ≠ 0 := by
  decide

/-- V-E1 and 20_memory.md R55: the bytes of a packet, least significant first. -/
theorem test_bytes : Packet.toBytes ⟨0x10000008, [0x40E5888000000000]⟩ =
    [0x08, 0x00, 0x00, 0x10, 0x00, 0x00, 0x00, 0x00, 0x80, 0x88, 0xE5, 0x40] := by rfl

theorem test_bytes_partial_word :
    decodeBytes [0x00, 0x00, 0x00, 0x32, 0x00] = .error .notWholePacket := by rfl

/-- The table's word of `BQ.COEFFS`: six operand words of zeros. -/
theorem test_table_word :
    decodeTableWord 32 0x28000000 = some (.bqCoeffs 0 0 0 0 0 0) := by rfl

/-- The first operand word of a table word is bits 95:32. -/
theorem test_table_word_operand :
    decodeTableWord 96 0x3FF000000000000030000000 = some (.bqTick one) := by rfl

/-! ### Integer laws and tables: V-T1 -/

theorem test_rev_table : revTable 8 = [0, 4, 2, 6, 1, 5, 3, 7] := by decide
theorem test_rev_empty : revTable 6 = [] ∧ revTable 0 = [] := by decide

/-- 41_fft.md R134 and V-T1: the entry of `TWSIN` at index 1 under the reference numerics, and the angle
`−PI` it is taken of. -/
theorem test_rom_angle : romAngle 1 = 0xC00921FB54442D18 ∧ romAngle 2 = 0xBFF921FB54442D18 := by
  decide +kernel

/-! ### Arithmetic -/

/-- 0.1 + 0.2. -/
theorem test_add_rounds :
    fadd 0 0x3FB999999999999A 0x3FC999999999999A = 0x3FD3333333333334 := by decide +kernel

/-- 40_numerics.md R101: a result past the largest finite is an infinity. -/
theorem test_mul_overflows :
    fmul 0 0x7FEFFFFFFFFFFFFF two = posInf := by decide +kernel

/-- 40_numerics.md R104: gradual underflow, a tie to even. -/
theorem test_div_underflows : fdiv 0 0x0000000000000003 two = 0x0000000000000002 := by
  decide +kernel

theorem test_sqrt_two : fsqrt 0 two = 0x3FF6A09E667F3BCD := by decide +kernel

/-- 40_numerics.md R109: `TWO_PI`. -/
theorem test_two_pi : twoPi = 0x401921FB54442D18 := by decide +kernel

theorem test_i2f : i2f 16777215 = 0x416FFFFFE0000000 := by decide +kernel

/-- V-D5 (e), 42_biquad_designer.md R193: a gain of 1e6 gives `A = +∞`; and 40_numerics.md R113: the
underflow to +0. -/
theorem test_pow_range :
    designAmp 0 { type := 6, fs := sixty, f0 := fifteen, q := one, gain := 0x412E848000000000 } =
        posInf ∧ unitPow 0 ten 0xC079000000000000 = posZero := by decide +kernel

/-- The bounds of log entry 19 lie between the whole exponents that 10^308 < 2^1024 < 10^309 and its
like give. -/
theorem test_pow_bounds :
    10 ^ 308 < 2 ^ 1024 - 2 ^ 970 ∧ 2 ^ 1024 - 2 ^ 970 < 10 ^ 309 ∧
    10 ^ 323 < 2 ^ 1075 ∧ 2 ^ 1075 < 10 ^ 324 ∧ 10 ^ 307 < 2 ^ 1022 ∧ 2 ^ 1022 < 10 ^ 308 := by
  decide +kernel

/-! ### States to run on -/

/-- The state a step gives, if it gives one. -/
def nextOf : Host.Outcome State Fault Refusal → Option State
  | .next t    => some t
  | .fault _   => none
  | .refused _ => none

/-- The last response given. -/
def lastOf (o : Host.Outcome State Fault Refusal) : Option Response :=
  (nextOf o).bind fun t => t.responses.getLast?

/-- An engine of length 4 at rate 8 Hz with the reference ROM (41_fft.md R134), index 3 not used. -/
def engine4 : State :=
  { State.reset with
    fft := FftRegs.configured 4 0x4020000000000000
    mem := { Memory.configured 4 with
      twsin := [someNaN, 0xBCA1A62633145C07, 0xBFF0000000000000, posZero]
      twcos := [someNaN, 0xBFF0000000000000, 0x3C91A62633145C07, posZero] } }

/-- An engine of length 8 at rate 8 Hz with the reference ROM at the indices a transform uses. -/
def engine8 : State :=
  { State.reset with
    fft := FftRegs.configured 8 0x4020000000000000
    mem := { Memory.configured 8 with
      twsin := [someNaN, 0xBCA1A62633145C07, 0xBFF0000000000000, posZero, 0xBFE6A09E667F3BCC,
        posZero, posZero, posZero]
      twcos := [someNaN, 0xBFF0000000000000, 0x3C91A62633145C07, posZero, 0x3FE6A09E667F3BCD,
        posZero, posZero, posZero] } }

/-- A filter with the coefficients of V-P1 and an empty history. -/
def filterP1 : State :=
  { State.reset with
    coef := { a0 := two, b0 := one, b1 := 0x3FE0000000000000, b2 := 0x3FD0000000000000
              a1 := negOne, a2 := 0x3FE0000000000000 } }

/-- The engine of length 2 that `FFT.CFG 2 ; 1.0` leaves after reset. -/
def engine2 : State := State.reset.configure 2 one

/-- An engine with a latched fault. -/
def engineFaulted : State := { engine2 with fft := { engine2.fft with err := 2 } }

/-! ### Steps -/

/-- V-A3: a register. -/
theorem test_rd_register :
    lastOf (exec (.rd 15 0x12) State.reset) =
      some { status := .ok, words := [0x402E000000000000] } := by decide +kernel

/-- V-A6: an element, and V-A1: an index at the length. -/
theorem test_rd_element :
    lastOf (exec (.rd 4 6) engine8) = some { status := .ok, words := [3] } ∧
      lastOf (exec (.rd 2 4) engine8) = some { status := .index, words := [] } := by
  decide +kernel

/-- V-X8: past the capacity nothing changes. 0xFFFFFF is past every `N_MAX`. -/
theorem test_cfg_capacity :
    exec (.fftCfg 0xFFFFFF one) engineFaulted = raise .capacity engineFaulted :=
  if_pos (Nat.lt_of_le_of_lt Config.nMax_le (by decide))

/-- V-X4: a configuration clears the latch. -/
theorem test_cfg_clears_the_latch :
    exec (.fftCfg 2 one) engineFaulted = answer [] engine2 :=
  if_neg (Nat.not_lt.mpr Config.two_le_nMax)

/-- V-F12. -/
theorem test_fwd_four :
    (nextOf (exec (.fftFwd [one, two, 0x4008000000000000, four]) engine4)).map
        (fun t => (t.mem.re, t.mem.im, t.mem.mag, t.fft.peak, t.fft.peakBand)) =
      some ([0x4024000000000000, 0xC000000000000000, 0xC000000000000000, 0xBFFFFFFFFFFFFFFF],
        [posZero, two, posZero, 0xC000000000000000], [0x4014000000000000, 0x3FF6A09E667F3BCD],
        0x4014000000000000, 0) := by decide +kernel

/-- V-F6: one cosine period, with its rounding residue. -/
theorem test_fwd_eight :
    (nextOf (exec (.fftFwd [one, 0x3FE6A09E667F3BCD, posZero, 0xBFE6A09E667F3BCD, negOne,
          0xBFE6A09E667F3BCD, posZero, 0x3FE6A09E667F3BCD]) engine8)).map
        (fun t => (t.mem.re, t.mem.im, t.fft.peak, t.fft.peakBand)) =
      some ([posZero, four, posZero, posZero, posZero, posZero, posZero, four],
        [posZero, 0x3CB0000000000000, posZero, 0xBCC0000000000000, posZero, 0xBCB0000000000000,
          posZero, 0x3CC0000000000000], one, 1) := by decide +kernel

/-- V-F9: both arrays supplied. -/
theorem test_inv_both :
    lastOf (exec (.fftInv 3 [ten, 0xC000000000000000, 0xC000000000000000, 0xC000000000000000,
        posZero, two, posZero, 0xC000000000000000]) engine4) =
      some { status := .ok, words := [one, two, 0x4008000000000000, four] } := by decide +kernel

/-- V-F9: the real array supplied, the imaginary one the engine's own. -/
theorem test_inv_real :
    lastOf (exec (.fftInv 1 [ten, 0xC000000000000000, 0xC000000000000000, 0xC000000000000000])
        engine4) =
      some { status := .ok
             words := [one, 0x4008000000000000, 0x4008000000000000, 0x4008000000000000] } := by
  decide +kernel

/-- V-B7 and V-B6. -/
theorem test_bandf :
    lastOf (exec (.fftBandf 3) engine8) =
        some { status := .ok, words := [0x400C000000000000] } ∧
      bandFrequency 0 1024 0x40E5888000000000 16777215 = 0x41C5887FF53BC000 := by decide +kernel

/-- V-D3 (c): a present zero is stored, and the absent parameters take their defaults. -/
theorem test_set_zero_frequency :
    (nextOf (exec (.bqSet 0 2 [posZero]) State.reset)).map (fun t => (t.par, t.coef)) =
      some ({ type := 0, fs := sixty, f0 := posZero, q := one, gain := posZero },
        { a0 := one, b0 := posZero, b1 := posZero, b2 := posZero, a1 := 0xC000000000000000
          a2 := one }) := by decide +kernel

/-- V-D3 (b): `BQ.SET` with type and Q present; the frequency is `BQ_FS / 4`. -/
theorem test_set_type_and_q :
    (nextOf (exec (.bqSet 1 5 [0x3FE0000000000000])
        { State.reset with par := { resetParams with fs := 0x40E7700000000000 } })).map (·.par) =
      some { type := 1, fs := 0x40E7700000000000, f0 := 0x40C7700000000000
             q := 0x3FE0000000000000, gain := posZero } := by decide +kernel

/-- V-P2: an unknown type passes through. -/
theorem test_settype_unknown :
    (nextOf (exec (.bqSetType 9) State.reset)).map (fun t => (t.par.type, t.coef)) =
      some (9, passThroughSet) := by decide +kernel

theorem test_setfreq :
    (nextOf (exec (.bqSetFreq ten) State.reset)).map (·.par) =
      some { resetParams with f0 := ten } := by decide +kernel

theorem test_setq :
    (nextOf (exec (.bqSetQ two) State.reset)).map (·.par) =
      some { resetParams with q := two } := by decide +kernel

theorem test_setgain :
    (nextOf (exec (.bqSetGain two) State.reset)).map (·.par) =
      some { resetParams with gain := two } := by decide +kernel

/-- `BQ.SETBW` keeps every parameter but Q. -/
theorem test_setbw :
    (nextOf (exec (.bqSetBw one) State.reset)).map (fun t => (t.par.type, t.par.f0, t.par.fs)) =
      some (0, fifteen, sixty) := by decide +kernel

/-- V-D3: `BQ.SETFS` keeps the frequency. -/
theorem test_setfs :
    (nextOf (exec (.bqSetFs 0x40E7700000000000) State.reset)).map (·.par) =
      some { resetParams with fs := 0x40E7700000000000 } := by decide +kernel

/-- `BQ.RECOMPUTE` leaves the parameters and puts back the coefficients of an unknown type. -/
theorem test_recompute :
    (nextOf (exec .bqRecompute { filterP1 with par := { resetParams with type := 15 } })).map
        (·.coef) = some passThroughSet := by decide +kernel

/-- V-D4. -/
theorem test_coeffs :
    (nextOf (exec (.bqCoeffs two one 0x3FE0000000000000 0x3FD0000000000000 negOne
        0x3FE0000000000000) State.reset)).map (fun t => (t.coef, t.par)) =
      some (filterP1.coef, resetParams) := by decide +kernel

/-- V-P1, its ninth sample: the memory is `(+0, +0, 0.0078125, +0)`. -/
theorem test_tick :
    (nextOf (exec (.bqTick one) { filterP1 with
        hist := { x1 := posZero, x2 := posZero, y1 := 0x3F80000000000000, y2 := posZero } })).map
        (fun t => (t.responses.getLast?, t.hist)) =
      some (some { status := .ok, words := [0x3FE0200000000000] },
        { x1 := one, x2 := posZero, y1 := 0x3FE0200000000000, y2 := 0x3F80000000000000 }) := by
  decide +kernel

/-- V-P5: negative zero. -/
theorem test_tick_negative_zero :
    lastOf (exec (.bqTick posZero)
        { State.reset with coef := { a0 := one, b0 := negOne, b1 := negOne, b2 := negOne
                                     a1 := one, a2 := one } }) =
      some { status := .ok, words := [negZero] } := by decide +kernel

/-- V-P1. -/
theorem test_process :
    lastOf (exec (.bqProcess [one, 0, 0, 0, 0, 0, 0, 0]) filterP1) =
      some { status := .ok
             words := [0x3FE0000000000000, 0x3FE0000000000000, 0x3FD0000000000000, 0,
               0xBFB0000000000000, 0xBFA0000000000000, 0, 0x3F80000000000000] } := by
  decide +kernel

/-- V-E25: an empty buffer. -/
theorem test_process_empty :
    lastOf (exec (.bqProcess []) filterP1) = some { status := .ok, words := [] } := by
  decide +kernel

/-- V-P3. -/
theorem test_clear :
    (nextOf (exec .bqClear { filterP1 with
        hist := { x1 := one, x2 := one, y1 := 0x3FF3FC0000000000, y2 := one } })).map
        (fun t => (t.hist, t.coef)) = some (History.zero, filterP1.coef) := by decide +kernel

/-! The coefficient rows of V-D2, from the intermediates V-D2 gives. -/

def intermediatesD2 : Intermediates :=
  { amp := 0x3FF699C0F7E86E10, cosw0 := 0x3FEFB9EA92EC689B, sinw0 := 0x3FC0B5150F6DA2D0
    alpha := 0x3FA0B5150F6DA2D0, shelf := 0x3FB3DB52618A9DA6 }

/-- V-D2, types 0 to 5. -/
theorem test_rows_0_to_5 :
    coeffSet 0 0 intermediatesD2 =
    { a0 := 0x3FF085A8A87B6D16, b0 := 0x3F71855B44E5D940, b1 := 0x3F81855B44E5D940
      b2 := 0x3F71855B44E5D940, a1 := 0xBFFFB9EA92EC689B, a2 := 0x3FEEF4AEAF0925D3 } ∧
    coeffSet 0 1 intermediatesD2 =
    { a0 := 0x3FF085A8A87B6D16, b0 := 0x3FEFDCF54976344E, b1 := 0xBFFFDCF54976344E
      b2 := 0x3FEFDCF54976344E, a1 := 0xBFFFB9EA92EC689B, a2 := 0x3FEEF4AEAF0925D3 } ∧
    coeffSet 0 2 intermediatesD2 =
    { a0 := 0x3FF085A8A87B6D16, b0 := 0x3FB0B5150F6DA2D0, b1 := posZero
      b2 := 0xBFB0B5150F6DA2D0, a1 := 0xBFFFB9EA92EC689B, a2 := 0x3FEEF4AEAF0925D3 } ∧
    coeffSet 0 3 intermediatesD2 =
    { a0 := 0x3FF085A8A87B6D16, b0 := 0x3FA0B5150F6DA2D0, b1 := posZero
      b2 := 0xBFA0B5150F6DA2D0, a1 := 0xBFFFB9EA92EC689B, a2 := 0x3FEEF4AEAF0925D3 } ∧
    coeffSet 0 4 intermediatesD2 =
    { a0 := 0x3FF085A8A87B6D16, b0 := one, b1 := 0xBFFFB9EA92EC689B
      b2 := one, a1 := 0xBFFFB9EA92EC689B, a2 := 0x3FEEF4AEAF0925D3 } ∧
    coeffSet 0 5 intermediatesD2 =
    { a0 := 0x3FF085A8A87B6D16, b0 := 0x3FEEF4AEAF0925D3, b1 := 0xBFFFB9EA92EC689B
      b2 := 0x3FF085A8A87B6D16, a1 := 0xBFFFB9EA92EC689B, a2 := 0x3FEEF4AEAF0925D3 } := by
  decide +kernel

/-- V-D2, types 6 to 8. -/
theorem test_rows_6_to_8 :
    coeffSet 0 6 intermediatesD2 =
    { a0 := 0x3FF05E9F89F41E66, b0 := 0x3FF0BCCC5073A959, b1 := 0xBFFFB9EA92EC689B
      b2 := 0x3FEE86675F18AD4E, a1 := 0xBFFFB9EA92EC689B, a2 := 0x3FEF42C0EC17C334 } ∧
    coeffSet 0 7 intermediatesD2 =
    { a0 := 0x400731612A326984, b0 := 0x40078459C288C40A, b1 := 0xC0165E0BC564EA9A
      b2 := 0x4005C393A23221B6, a1 := 0xC0166F7BE09C48E4, a2 := 0x4005F3AC0419BFAA } ∧
    coeffSet 0 8 intermediatesD2 =
    { a0 := 0x4000A614F3CEAE66, b0 := 0x40106162C1890285, b1 := 0xC01FB0E2FAD8353A
      b2 := 0x400F01FF62BB62B6, a1 := 0xC00FAB75D167B5A8, a2 := 0x3FFED0BF9B6C0918 } := by
  decide +kernel

/-- V-D2: `w0`. -/
theorem test_w0 : designW0 0 { type := 0, fs := 0x40E7700000000000, f0 := 0x408F400000000000
                               q := two, gain := posZero } = 0x3FC0C152382D7365 := by
  decide +kernel

/-- V-X1, V-X2: an exception is a next state; the latch refuses what follows. -/
theorem test_fault_latched :
    (nextOf (exec (.fftFwd []) State.reset)).map (fun t => (t.fft.err, t.responses)) =
      some (1, [{ status := .notPow2, words := [] }]) ∧
    lastOf (exec (.fftBandf 0) engineFaulted) = some { status := .fftFault, words := [] } := by
  decide +kernel

/-- The first instruction after reset is the packet the host sends. -/
theorem test_first_step :
    (nextOf (step (State.reset.withFetchWord 32 0x32000000))).map
        (fun t => (t.hist, t.inbox, t.responses)) =
      some (History.zero, [], [{ status := .ok, words := [] }]) := by decide +kernel

/-- 70_reset_and_hazards.md R262: reset in the middle of a command answers nothing. -/
theorem test_reset_step :
    (nextOf (step { engineFaulted with inbox := [.reset (some ⟨0x27000000, []⟩)] })).map
        (fun t => (t.fft, t.responses)) = some (FftRegs.reset, []) := by decide +kernel

/-! ### Witnesses: a state and operands that meet the hypotheses of each statement -/

/-- The engine of length 2 meets the invariant. -/
theorem engine2_inv : Inv engine2 where
  capacity := Config.two_le_nMax
  err := .inl rfl
  peakBand := by decide
  mem := ⟨Memory.configured_wf 2, rfl, rfl, rfl⟩

/-- So does the engine with a latched fault. -/
theorem engineFaulted_inv : Inv engineFaulted where
  capacity := Config.two_le_nMax
  err := .inr (.inr rfl)
  peakBand := by decide
  mem := ⟨Memory.configured_wf 2, rfl, rfl, rfl⟩

/-- A forward transform on the engine of length 2 completes. -/
theorem engine2_forward (buffer : List F64) (h : buffer.length = 2) :
    exec (.fftFwd buffer) engine2 = .next ((engine2.forward buffer).respond .ok []) := by
  have hf : transformFault engine2 buffer.length engine2.len = none :=
    (transformFault_none_iff ..).mpr ⟨rfl, by decide, h⟩
  have hw : engine2.mem.wf engine2.len = true := Memory.configured_wf 2
  simp only [exec, execFftFwd, hf, hw, if_true, answer_eq]

theorem witness_StepRunsTheDecodedCommand :
    ({ State.reset with inbox := [.packet ⟨0x30000000, [one]⟩] } : State).inbox =
        .packet ⟨0x30000000, [one]⟩ :: [] ∧ decode ⟨0x30000000, [one]⟩ = .ok (.bqTick one) :=
  ⟨rfl, rfl⟩

theorem witness_IllegalPacketsAnswerIllegal :
    (∃ s : State, s.inbox = .packet ⟨0x200000F5, [1, 2, 3]⟩ :: []) ∧
    LegalPacket ⟨0x200000F5, [1, 2, 3]⟩ ∧ LegalPacket ⟨0x13FFFFFF, []⟩ ∧
    ¬ LegalPacket ⟨0x200000F5, [1, 2]⟩ ∧ ¬ LegalPacket ⟨0x20000005, []⟩ ∧
    ¬ LegalPacket ⟨0x12000004, []⟩ ∧ ¬ LegalPacket ⟨0x33000000, [1]⟩ := by
  refine ⟨⟨{ State.reset with inbox := _ }, rfl⟩, .inl ?_, .inr ⟨(0x13, 0x000000, some 0), ?_⟩, ?_⟩
  · unfold legalSet; decide
  · simp [commandRows]
  · simp [LegalPacket, legalSet, commandRows]

theorem witness_DecodeOfEncodeIsIdentity :
    (Instr.bqSet 15 0xF [1, 2, 3]).wf = true ∧ (Instr.rd 15 0xFFFFF).wf = true := by decide

theorem witness_EncodeOfDecodeIsIdentity :
    decode ⟨0x20000051, [7]⟩ = .ok (.bqSet 1 5 [7]) := by rfl

theorem witness_AddRoundsTheExactSumOnce :
    isFinite one = true ∧ isFinite 0x7FEFFFFFFFFFFFFF = true ∧
    signedUnits one + signedUnits 0x7FEFFFFFFFFFFFFF ≠ 0 ∧
    isFinite negOne = true ∧ signedUnits one + signedUnits negOne = 0 := by decide +kernel

theorem witness_MulRoundsTheExactProductOnce :
    isFinite negOne = true ∧ isFinite 0x7FEFFFFFFFFFFFFF = true := by decide +kernel

theorem witness_DivRoundsTheExactQuotientOnce :
    isFinite one = true ∧ isFinite 0x0000000000000001 = true ∧
      isZero 0x0000000000000001 = false := by decide +kernel

theorem witness_SqrtRoundsTheExactRootOnce :
    isFinite two = true ∧ isZero two = false ∧ signBit two = false := by decide +kernel

theorem witness_SpecialOperandsGiveTheListedResults :
    isFinite negOne = true ∧ isZero negOne = false ∧ isZero posZero = true ∧
    isZero negZero = true ∧ isInf posInf = true ∧ isInf (flipSign posInf) = true ∧
    signBit negOne = true := by decide +kernel

theorem witness_NaNOperandsGiveNaN : isNaN 0xFFF0000000000001 = true := by decide +kernel

theorem witness_NoResultDependsOnANaNPattern :
    sameUpToNaN someNaN 0xFFF0000000000001 = true ∧ sameUpToNaN one one = true := by
  decide +kernel

theorem witness_NegationFlipsTheSign :
    isNaN posZero = false ∧ isNaN someNaN = true := by decide +kernel

theorem witness_ComparisonAndConversionAreExact :
    isNaN someNaN = true ∧ isFinite one = true ∧ isFinite negOne = true ∧
    isZero posZero = true ∧ isZero negZero = true ∧ 2 ^ 53 - 1 < 2 ^ 53 := by decide +kernel

theorem witness_UnitsHaveTheStatedValues :
    isInf posInf = true ∧ isFinite negOne = true ∧ isZero negOne = false ∧
    isFinite one = true ∧ isZero one = false ∧
    (isFinite 0x4073500000000000 = true ∧
      309 * (unitsPerOne : Int) ≤ signedUnits 0x4073500000000000) ∧
    (isFinite 0x4073400000000000 = true ∧
      signedUnits 0x4073400000000000 ≤ 308 * (unitsPerOne : Int) ∧
      -307 * (unitsPerOne : Int) ≤ signedUnits 0x4073400000000000) ∧
    (isFinite 0xC074300000000000 = true ∧
      -323 * (unitsPerOne : Int) ≤ signedUnits 0xC074300000000000 ∧
      signedUnits 0xC074300000000000 ≤ -308 * (unitsPerOne : Int)) ∧
    (isFinite 0xC074400000000000 = true ∧
      signedUnits 0xC074400000000000 ≤ -324 * (unitsPerOne : Int)) := by decide +kernel

theorem witness_BitReversalReversesAndPermutes :
    7 < 2 ^ 3 ∧ 2 < 3 ∧ 0 < 2 ^ 0 := by decide

theorem witness_PowerOfTwoTestIsExact :
    2 ^ 23 < 2 ^ 24 ∧ 23 < 24 ∧ 0 < 2 ^ 24 := by decide

theorem witness_DoublingBuildsTheReverseTable : 23 < 24 := by decide

theorem witness_ConfigurationBuildsTheTables :
    (2 : BitVec 24).toNat ≤ Config.nMax ∧ isPow2 (2 : BitVec 24).toNat = true ∧
    0 < (2 : BitVec 24).toNat ∧ 1 < (2 : BitVec 24).toNat ∧
    (0 : BitVec 24).toNat ≤ Config.nMax ∧ isPow2 (0 : BitVec 24).toNat = false :=
  ⟨Config.two_le_nMax, by decide, by decide, by decide, Nat.zero_le _, by decide⟩

/-- A pair of a butterfly; and the pair 1, 3 of the last stage of length 4, with phase 1. -/
theorem witness_ButterflyCombinesOnePair :
    (0 < 1 ∧ ([one, two] : List F64)[0]? = some one ∧ ([one, two] : List F64)[0 + 1]? = some two ∧
      ([two, one] : List F64)[0]? = some two ∧ ([two, one] : List F64)[0 + 1]? = some one) ∧
    (1 < 2 ∧ ([one, two, four, ten] : List F64).length = 2 ^ 2 ∧
      engine4.mem.twcos[2 ^ 1]? = some 0x3C91A62633145C07 ∧
      engine4.mem.twsin[2 ^ 1]? = some 0xBFF0000000000000 ∧ 1 % (2 * 2 ^ 1) < 2 ^ 1 ∧
      ([one, two, four, ten] : List F64)[1]? = some two ∧
      ([one, two, four, ten] : List F64)[1 + 2 ^ 1]? = some ten) := by
  decide

/-- 41_fft.md R153: the phase of group 1 of the stage of half-size 2 is the ROM entry. -/
theorem test_running_phase :
    runningPhase 0 0x3C91A62633145C07 0xBFF0000000000000 1 =
      (0x3C91A62633145C07, 0xBFF0000000000000) := by decide +kernel

theorem witness_NetworkStaysBelowTheLength :
    ([one, two] : List F64).length = 2 ^ 1 ∧ ([one] : List F64).length = 2 ^ 0 := by decide

/-- Two tables that differ at 0 and past the length only. -/
theorem witness_NetworkReadsPowerOfTwoEntriesOnly :
    ∀ j, j < 1 → ([one, two] : List F64)[2 ^ j]? = ([four, two, four] : List F64)[2 ^ j]? := by
  decide

theorem witness_CfgConstructsTheEngine :
    (2 : BitVec 24).toNat ≤ Config.nMax ∧ Config.nMax < (0xFFFFFF : BitVec 24).toNat :=
  ⟨Config.two_le_nMax, Nat.lt_of_le_of_lt Config.nMax_le (by decide)⟩

theorem witness_ForwardTransformsTheBuffer :
    engine2.fft.err = 0 ∧ isPow2 engine2.len = true ∧
    ([one, two] : List F64).length = engine2.len ∧ MemoryInv engine2.mem engine2.len ∧
    0 < engine2.len / 2 :=
  ⟨rfl, by decide, rfl, engine2_inv.mem, by decide⟩

/-- V-F2: the peak is 8.0, in a transform of the engine of length 2; and a transform of zeros. -/
theorem witness_PeakIsTheFirstLargestMagnitude :
    (engine2.fft.err = 0 ∧ isPow2 engine2.len = true ∧ MemoryInv engine2.mem engine2.len) ∧
    exec (.fftFwd [0x4008000000000000, 0x4014000000000000]) engine2 =
      .next ((engine2.forward [0x4008000000000000, 0x4014000000000000]).respond .ok []) ∧
    fgt (engine2.forward [0x4008000000000000, 0x4014000000000000]).fft.peak posZero = true ∧
    exec (.fftFwd [posZero, posZero]) engine2 =
      .next ((engine2.forward [posZero, posZero]).respond .ok []) ∧
    (engine2.forward [posZero, posZero]).mem.mag = [posZero] ∧ isZero posZero = true :=
  ⟨⟨rfl, by decide, engine2_inv.mem⟩, engine2_forward _ rfl, by decide +kernel,
    engine2_forward _ rfl, by decide +kernel, by decide⟩

theorem witness_TransformFaultsInPriorityOrder :
    engineFaulted.fft.err ≠ 0 ∧
    (State.reset.fft.err = 0 ∧ isPow2 State.reset.len = false) ∧
    (engine2.fft.err = 0 ∧ isPow2 engine2.len = true ∧ ([one] : List F64).length ≠ engine2.len) ∧
    ([one] : List F64).length ≠ engine2.len * (((0 : BitVec 2)[0]).toNat + ((0 : BitVec 2)[1]).toNat)
    := by decide

theorem witness_InverseAnswersTheTimeBuffer :
    engine2.fft.err = 0 ∧ isPow2 engine2.len = true ∧ MemoryInv engine2.mem engine2.len ∧
    engine2.mem.re.length = engine2.len ∧ engine2.mem.im.length = engine2.len ∧
    ([one, two] : List F64).length = engine2.len ∧
    (([] : List F64) = (if (0 : BitVec 2)[0] then engine2.mem.re else []) ++
      (if (0 : BitVec 2)[1] then engine2.mem.im else [])) ∧
    (([one, two] ++ [two, one] : List F64) = (if (3 : BitVec 2)[0] then [one, two] else []) ++
      (if (3 : BitVec 2)[1] then [two, one] else [])) :=
  ⟨rfl, by decide, engine2_inv.mem, rfl, rfl, rfl, by decide, by decide⟩

theorem witness_RepeatedInverseAnswersTheSame :
    engine2.fft.err = 0 ∧ isPow2 engine2.len = true ∧ MemoryInv engine2.mem engine2.len :=
  ⟨rfl, by decide, engine2_inv.mem⟩

theorem witness_ScalingIsExactDivision : 20 ≤ 20 ∧ isNaN posInf = false := by decide +kernel

theorem witness_BandFrequencyAnswersTheFormula :
    engine2.fft.err = 0 ∧ State.reset.fft.err = 0 ∧ engineFaulted.fft.err ≠ 0 := by decide

/-- The last element of an array, the index after it, and a reserved space. -/
theorem witness_ReadAnswersElementsOrIndexFault :
    MemoryInv engine2.mem engine2.len ∧ (0 : BitVec 4) ≠ 15 ∧ (1 : BitVec 20).toNat < engine2.len ∧
    (0 : BitVec 20).toNat < engine2.len / 2 ∧ engine2.len / 2 ≤ (1 : BitVec 20).toNat ∧
    (14 : BitVec 4) ≠ 15 :=
  ⟨engine2_inv.mem, by decide, by decide, by decide, by decide, by decide⟩

theorem witness_ReadAnswersRegistersOrIndexFault :
    ((0x23 : BitVec 20), State.reset.hist.y2) ∈ csrMap State.reset ∧
    ∀ v, ((0x24 : BitVec 20), v) ∉ csrMap State.reset := by
  constructor
  · simp [csrMap]
  · simp [csrMap]

theorem witness_SetStoresOperandsOrDefaults :
    (Instr.bqSet 8 0xF [1, 2, 3]).wf = true ∧ (Instr.bqSet 0 0 []).wf = true := by decide

/-- One for each of the six setters. -/
theorem witness_SettersStoreAndRecompute :
    (∃ type, Instr.bqSetType 9 = .bqSetType type ∧
      ({ resetParams with type := 9 } : BqParams) = { State.reset.par with type := type }) ∧
    (∃ f0, Instr.bqSetFreq ten = .bqSetFreq f0 ∧
      ({ resetParams with f0 := ten } : BqParams) = { State.reset.par with f0 := f0 }) ∧
    (∃ q, Instr.bqSetQ ten = .bqSetQ q ∧
      ({ resetParams with q := ten } : BqParams) = { State.reset.par with q := q }) ∧
    (∃ gain, Instr.bqSetGain ten = .bqSetGain gain ∧
      ({ resetParams with gain := ten } : BqParams) = { State.reset.par with gain := gain }) ∧
    (∃ bw, Instr.bqSetBw ten = .bqSetBw bw ∧
      ({ resetParams with q := unitBw2q 1 ten fifteen sixty } : BqParams) =
        { State.reset.par with q := unitBw2q State.reset.draws bw State.reset.par.f0
                                      State.reset.par.fs }) ∧
    (∃ fs, Instr.bqSetFs ten = .bqSetFs fs ∧
      ({ resetParams with fs := ten } : BqParams) = { State.reset.par with fs := fs }) :=
  ⟨⟨_, rfl, rfl⟩, ⟨_, rfl, rfl⟩, ⟨_, rfl, rfl⟩, ⟨_, rfl, rfl⟩, ⟨_, rfl, rfl⟩, ⟨_, rfl, rfl⟩⟩

theorem witness_DoublingUndoesHalving :
    (isFinite 0x0020000000000000 = true ∧ 2 ^ 53 ≤ magBits 0x0020000000000000) ∧
      resetParams.type = 0 := by decide +kernel

theorem witness_PeakingAtZeroGainIsUnity :
    ({ resetParams with type := 6 } : BqParams).type = 6 ∧
      isZero ({ resetParams with type := 6 } : BqParams).gain = true := by decide +kernel

theorem witness_GainAffectsOnlyPeakingAndShelves :
    ({ resetParams with type := 5 } : BqParams).type.toNat < 6 ∧
    9 ≤ ({ resetParams with type := 9 } : BqParams).type.toNat ∧ (5 : BitVec 4).toNat < 6 := by
  decide

theorem witness_NaNOutputsAreSticky :
    isNaN ({ State.reset with hist := { History.zero with y1 := someNaN } } : State).hist.y1 = true ∧
    isNaN ({ State.reset with hist := { History.zero with y2 := someNaN } } : State).hist.y2 = true
    := by decide +kernel

theorem witness_PassThroughReturnsFiniteSamples :
    9 ≤ ({ resetParams with type := 9 } : BqParams).type.toNat ∧
    isFinite negZero = true ∧ isFinite History.zero.x1 = true ∧ isFinite History.zero.x2 = true ∧
    isFinite History.zero.y1 = true ∧ isFinite History.zero.y2 = true := by decide +kernel

/-- A transform and a tick that complete, and a transform that stops: an engine whose arrays do not
have their lengths. -/
theorem witness_UnitsShareNothing :
    (fftCommand (.fftFwd [one, two]) = true ∧
      exec (.fftFwd [one, two]) engine2 = .next ((engine2.forward [one, two]).respond .ok [])) ∧
    (bqCommand (.bqTick one) = true ∧
      exec (.bqTick one) engine2 = .next ((engine2.ticked one).respond .ok
        [tickOutput engine2.draws engine2.coef engine2.hist one])) ∧
    exec (.fftInv 0 []) { State.reset with fft := { FftRegs.reset with n := 1 } } =
      .fault .noSuchElement :=
  ⟨⟨rfl, engine2_forward _ rfl⟩, ⟨rfl, rfl⟩, rfl⟩

/-- A state of the invariant whose next input is a transform; and one with a reset coming. -/
theorem witness_EveryStepKeepsTheInvariant :
    Inv { engine2 with inbox := [.reset none] } ∧
    step { engine2 with inbox := [.reset none] } =
      .next (State.hostReset { engine2 with inbox := [] }) :=
  ⟨⟨engine2_inv.capacity, engine2_inv.err, engine2_inv.peakBand, engine2_inv.mem⟩, rfl⟩

theorem witness_SpectrumDescribesTheFrame :
    (Inv engine2 ∧ engine2.fft.err = 0 ∧ isPow2 engine2.len = true ∧
      ([one, two] : List F64).length = engine2.len ∧
      exec (.fftFwd [one, two]) engine2 = .next ((engine2.forward [one, two]).respond .ok [])) ∧
    (Inv State.reset ∧ SpectrumOk State.reset ∧ (∀ n fs, Instr.bqClear ≠ .fftCfg n fs) ∧
      ∃ t, exec .bqClear State.reset = .next t) := by
  refine ⟨⟨engine2_inv, rfl, by decide, rfl, engine2_forward _ rfl⟩, ?_, ?_, ?_, _, rfl⟩
  · exact ⟨Nat.zero_le _, .inl rfl, by decide, ⟨Memory.reset_wf, rfl, rfl, rfl⟩⟩
  · exact ⟨0, rfl, rfl, rfl, rfl⟩
  · exact fun _ _ => nofun

theorem witness_CoefficientsAreTheRecompute :
    ((Instr.bqSet 6 9 [one]).wf = true ∧ recomputingCommand (.bqSet 6 9 [one]) = true ∧
      ∃ t, exec (.bqSet 6 9 [one]) State.reset = .next t) ∧
    (DesignOk State.reset ∧ (∀ a0 b0 b1 b2 a1 a2, Instr.bqClear ≠ .bqCoeffs a0 b0 b1 b2 a1 a2) ∧
      ∃ t, exec .bqClear State.reset = .next t) :=
  ⟨⟨by decide, rfl, _, rfl⟩, ⟨0, rfl⟩, fun _ _ _ _ _ _ => nofun, _, rfl⟩

theorem witness_EveryStepGivesANextState : Inv engine2 := engine2_inv

theorem witness_EveryCommandAnswersOnce :
    Inv engine2 ∧ (Instr.fftFwd [one, two]).wf = true ∧
      exec (.fftFwd [one, two]) engine2 = .next ((engine2.forward [one, two]).respond .ok []) :=
  ⟨engine2_inv, rfl, engine2_forward _ rfl⟩

/-- A latched status and one that is not. -/
theorem witness_FaultsArePrecise :
    (∃ t, exec (.fftFwd []) State.reset = .next t ∧
      t.responses = State.reset.responses ++ [{ status := .notPow2, words := [] }] ∧
      Status.notPow2 ≠ .ok) ∧
    (∃ t, exec (.rd 7 0) State.reset = .next t ∧
      t.responses = State.reset.responses ++ [{ status := .index, words := [] }] ∧
      Status.index ≠ .ok ∧ Status.index ≠ .notPow2 ∧ Status.index ≠ .length) :=
  ⟨⟨_, rfl, rfl, by decide⟩, _, rfl, rfl, by decide, by decide, by decide⟩

theorem witness_LatchKeepsTheFirstFault :
    engineFaulted.fft.err ≠ 0 ∧ (∀ n fs, Instr.fftFwd [one, two] ≠ .fftCfg n fs) ∧
    exec (.fftFwd [one, two]) engineFaulted =
      .next (engineFaulted.respond .fftFault []) :=
  ⟨by decide, fun _ _ => nofun, rfl⟩

theorem witness_HostResetAndIdle :
    ({ engine2 with inbox := [.reset (some ⟨0x27000000, []⟩)] } : State).inbox =
      .reset (some ⟨0x27000000, []⟩) :: [] ∧ engine2.inbox = [] := ⟨rfl, rfl⟩

end Sys2Proof.Tests
end

section
/-! SUPPORT. What executing one command can do to the state, said once. -/

namespace Sys2Proof.Machine

/-- What a command `i` that gives a next state does to `s`, by what it writes, with the guard under
which it writes it. -/
inductive Effect (i : Instr) (s : State) : State → Prop where
  /-- It raises a status; a latched one only where nothing is latched yet (60_exceptions.md R239). -/
  | raised (e : Status) (first : latchedStatus e = true → s.faulted = false) :
      Effect i s ((s.latch e).respond e [])
  /-- `FFT.CFG` constructs the engine (41_fft.md R140). -/
  | configured (n : BitVec 24) (fs : F64) (cmd : i = .fftCfg n fs)
      (fits : n.toNat ≤ Config.nMax) : Effect i s ((s.configure n fs).respond .ok [])
  /-- `FFT.FWD` writes the frame and its spectrum (41_fft.md R141). -/
  | transformed (buffer : List F64) (cmd : i = .fftFwd buffer) (pow2 : isPow2 s.len = true)
      (wf : s.mem.wf s.len = true) : Effect i s ((s.forward buffer).respond .ok [])
  /-- It stores parameters and recomputes (42_biquad_designer.md R170, R180). -/
  | recomputed (p : BqParams) : Effect i s ((s.withParams p).respond .ok [])
  /-- `BQ.COEFFS` stores coefficients (42_biquad_designer.md R191). -/
  | injected (c : Coeffs) (cmd : i = .bqCoeffs c.a0 c.b0 c.b1 c.b2 c.a1 c.a2) :
      Effect i s (State.respond { s with coef := c } .ok [])
  /-- It writes the filter memory (43_biquad_processor.md R200). -/
  | filtered (h : History) (k : Nat) (words : List (BitVec 64)) :
      Effect i s ((State.drawn { s with hist := h } k).respond .ok words)
  /-- It answers words and writes no state of the block. -/
  | answered (k : Nat) (words : List (BitVec 64)) :
      Effect i s ((s.drawn k).respond .ok words)

variable {i : Instr} {s t : State}

theorem raise_eq_next_iff {e : Status} :
    raise e s = .next t ↔ t = (s.latch e).respond e [] := by
  rw [raise_eq, Host.Outcome.next.injEq, eq_comm]

theorem answer_eq_next_iff {words : List (BitVec 64)} :
    answer words s = .next t ↔ t = s.respond .ok words := by
  rw [answer_eq, Host.Outcome.next.injEq, eq_comm]

theorem Effect.of_raise {e : Status} (first : latchedStatus e = true → s.faulted = false)
    (h : raise e s = .next t) : Effect i s t := by
  obtain rfl := raise_eq_next_iff.mp h
  exact .raised e first

theorem Effect.of_raise_unlatched {e : Status} (he : latchedStatus e = false)
    (h : raise e s = .next t) : Effect i s t :=
  .of_raise (fun hl => absurd (he ▸ hl) Bool.false_ne_true) h

/-- A command that only answers, with the counter of free values passed on. -/
theorem Effect.of_answer (k : Nat) {words : List (BitVec 64)}
    (h : answer words (s.drawn k) = .next t) : Effect i s t := by
  obtain rfl := answer_eq_next_iff.mp h
  exact .answered k words

theorem Effect.of_withParams {p : BqParams} (h : answer [] (s.withParams p) = .next t) :
    Effect i s t := by
  obtain rfl := answer_eq_next_iff.mp h
  exact .recomputed p

/-- A transform finds a structural fault only where nothing is latched (60_exceptions.md R239). -/
theorem not_faulted_of_transformFault {k want : Nat} {e : Status}
    (h : transformFault s k want = some e) (he : latchedStatus e = true) : s.faulted = false := by
  obtain ⟨rfl, -⟩ | ⟨-, hs, -⟩ | ⟨-, hs, -⟩ := transformFault_cases s k want e h
  · simp [latchedStatus] at he
  · exact hs
  · exact hs

/-! ### The commands one by one -/

theorem execRd_effect {space : BitVec 4} {idx : BitVec 20} (h : execRd space idx s = .next t) :
    Effect i s t := by
  unfold execRd readCsr readSpace at h
  split at h
  · split at h
    · exact .of_answer 0 h
    · exact .of_raise_unlatched rfl h
  · split at h
    · exact .of_raise_unlatched rfl h
    · split at h
      · exact .of_answer 0 h
      · cases h

theorem execFftCfg_effect {n : BitVec 24} {fs : F64} (h : execFftCfg n fs s = .next t) :
    Effect (.fftCfg n fs) s t := by
  unfold execFftCfg at h
  split at h
  next => exact .of_raise_unlatched rfl h
  next hn =>
    obtain rfl := answer_eq_next_iff.mp h
    exact .configured n fs rfl (Nat.le_of_not_lt hn)

theorem execFftFwd_effect {buffer : List F64} (h : execFftFwd buffer s = .next t) :
    Effect (.fftFwd buffer) s t := by
  unfold execFftFwd at h
  split at h
  next hf => exact .of_raise (not_faulted_of_transformFault hf) h
  next hf =>
    split at h
    next hw =>
      obtain ⟨-, hp, -⟩ := (transformFault_none_iff ..).mp hf
      obtain rfl := answer_eq_next_iff.mp h
      exact .transformed buffer rfl hp hw
    next => cases h

theorem execFftInv_effect {src : BitVec 2} {ops : List F64} (h : execFftInv src ops s = .next t) :
    Effect i s t := by
  unfold execFftInv at h
  split at h
  next hf => exact .of_raise (not_faulted_of_transformFault hf) h
  next =>
    split at h
    · exact .of_answer 1 h
    · cases h

theorem execFftBandf_effect {idx : BitVec 24} (h : execFftBandf idx s = .next t) :
    Effect i s t := by
  unfold execFftBandf at h
  split at h
  · exact .of_raise_unlatched rfl h
  · exact .of_answer 1 h

theorem execBqSet_effect {type pm : BitVec 4} {ops : List F64}
    (h : execBqSet type pm ops s = .next t) : Effect i s t := by
  unfold execBqSet at h
  split at h
  · exact .of_raise_unlatched rfl h
  · exact .of_withParams h

theorem execBqCoeffs_effect {a0 b0 b1 b2 a1 a2 : F64}
    (h : execBqCoeffs a0 b0 b1 b2 a1 a2 s = .next t) :
    Effect (.bqCoeffs a0 b0 b1 b2 a1 a2) s t := by
  obtain rfl := answer_eq_next_iff.mp h
  exact .injected ⟨a0, b0, b1, b2, a1, a2⟩ rfl

theorem execBqTick_effect {x : F64} (h : execBqTick x s = .next t) : Effect i s t := by
  obtain rfl := answer_eq_next_iff.mp h
  exact .filtered _ 1 _

theorem execBqProcess_effect {buffer : List F64} (h : execBqProcess buffer s = .next t) :
    Effect i s t := by
  obtain rfl := answer_eq_next_iff.mp h
  exact .filtered _ buffer.length _

theorem execBqClear_effect (h : execBqClear s = .next t) : Effect i s t := by
  obtain rfl := answer_eq_next_iff.mp h
  exact .filtered History.zero 0 []

/-- Every command that gives a next state has one of the effects. -/
theorem exec_effect (h : exec i s = .next t) : Effect i s t := by
  cases i with
  | rd => exact execRd_effect h
  | fftCfg => exact execFftCfg_effect h
  | fftFwd => exact execFftFwd_effect h
  | fftInv => exact execFftInv_effect h
  | fftBandf => exact execFftBandf_effect h
  | bqSet => exact execBqSet_effect h
  | bqCoeffs => exact execBqCoeffs_effect h
  | bqTick => exact execBqTick_effect h
  | bqProcess => exact execBqProcess_effect h
  | bqClear => exact execBqClear_effect h
  | bqSetType | bqSetFreq | bqSetQ | bqSetGain | bqSetBw | bqSetFs | bqRecompute =>
    exact .of_withParams h

/-! ### Commands whose outcome is determined -/

/-- An `FFT.FWD` whose checks pass completes (41_fft.md R141). -/
theorem exec_fftFwd_of_checks {buffer : List F64}
    (hf : transformFault s buffer.length s.len = none) (hw : s.mem.wf s.len = true) :
    exec (.fftFwd buffer) s = .next ((s.forward buffer).respond .ok []) := by
  simp only [exec, execFftFwd, hf, hw, if_true, answer_eq]

theorem transformFault_of_faulted (k want : Nat) (h : s.faulted = true) :
    transformFault s k want = some .fftFault := by
  simp [transformFault, h]

/-- While a fault is latched the transforms and the band query raise `E_FFTFAULT`
(60_exceptions.md R238). -/
theorem exec_of_faulted (hs : s.faulted = true)
    (hi : (∃ buffer, i = .fftFwd buffer) ∨ (∃ src ops, i = .fftInv src ops) ∨
      (∃ idx, i = .fftBandf idx)) :
    exec i s = raise .fftFault s := by
  obtain ⟨buffer, rfl⟩ | ⟨src, ops, rfl⟩ | ⟨idx, rfl⟩ := hi
  · simp only [exec, execFftFwd, transformFault_of_faulted _ _ hs]
  · simp only [exec, execFftInv, transformFault_of_faulted _ _ hs]
  · simp only [exec, execFftBandf, hs, if_true]

/-- A present bit takes one operand word where one is left, a clear bit none. -/
theorem takePresent_of_le (present : Bool) (ops : List F64) (h : present.toNat ≤ ops.length) :
    ∃ x rest, takePresent present ops = some (x, rest) ∧
      present.toNat + rest.length = ops.length := by
  match present, ops with
  | false, ops     => exact ⟨none, ops, rfl, Nat.zero_add _⟩
  | true, x :: ops => exact ⟨some x, ops, rfl, Nat.add_comm ..⟩

/-- A well-formed `BQ.SET` has its operands (42_biquad_designer.md R171). -/
theorem setArgs_of_wf {type pm : BitVec 4} {ops : List F64}
    (h : (Instr.bqSet type pm ops).wf = true) : ∃ a, setArgs type pm ops = some a := by
  simp only [Instr.wf, presentCount, Bool.and_eq_true, beq_iff_eq] at h
  obtain ⟨htype, hcount⟩ := h
  obtain ⟨f0, ops1, h1, hl1⟩ := takePresent_of_le pm[1] ops (by omega)
  obtain ⟨q, ops2, h2, hl2⟩ := takePresent_of_le pm[2] ops1 (by omega)
  obtain ⟨gain, ops3, h3, hl3⟩ := takePresent_of_le pm[3] ops2 (by omega)
  have hnil : ops3 = [] := List.eq_nil_of_length_eq_zero (by omega)
  simp [setArgs, htype, h1, h2, h3, hnil]

/-- A well-formed recomputing command stores some parameters and recomputes from them
(42_biquad_designer.md R170). -/
theorem exec_of_recomputingCommand (s : State) (hw : i.wf = true)
    (hi : recomputingCommand i = true) :
    ∃ p, exec i s = .next ((s.withParams p).respond .ok []) := by
  cases i with
  | bqSet type pm ops =>
    obtain ⟨a, ha⟩ := setArgs_of_wf hw
    exact ⟨setParams s.draws s.par a, by simp only [exec, execBqSet, ha, answer_eq]⟩
  | bqSetType | bqSetFreq | bqSetQ | bqSetGain | bqSetBw | bqSetFs | bqRecompute => exact ⟨_, rfl⟩
  | rd | fftCfg | fftFwd | fftInv | fftBandf | bqCoeffs | bqTick | bqProcess | bqClear => cases hi

end Sys2Proof.Machine
end

section
/-! SUPPORT. The invariants of 10_state.md R43, over each effect of a command. -/

namespace Sys2Proof.Machine

variable {s t : State}

/-! ### The peak bin -/

/-- The scan ends at the bin it had, or at one it scanned. -/
theorem peakScan_band (mags : List F64) (i : Nat) (best : PeakAt) :
    (peakScan mags i best).band = best.band ∨ (peakScan mags i best).band < i + mags.length := by
  induction mags generalizing i best with
  | nil => exact .inl rfl
  | cons m ms ih =>
    rw [peakScan, List.length_cons]
    split
    · obtain h | h := ih (i + 1) { band := i, value := m }
      · rw [h]; right; simp only; omega
      · right; omega
    · obtain h | h := ih (i + 1) best
      · exact .inl h
      · right; omega

/-- `PEAKBAND` is a bin, or 0 where there is none (10_state.md R43 (c)). -/
theorem peakOf_band_lt (mags : List F64) : (peakOf mags).band < max mags.length 1 := by
  obtain h | h := peakScan_band mags 0 { band := 0, value := posZero }
  · rw [peakOf, h]; simp only; omega
  · rw [peakOf]; omega

/-! ### The lengths, the latch, the peak bin and the tables -/

/-- The invariant speaks of the FFTEngine's state only. -/
theorem Inv.of_eq (h : Inv s) (hfft : t.fft = s.fft) (hmem : t.mem = s.mem) : Inv t := by
  obtain ⟨hcap, herr, hpeak, hm⟩ := h
  have hlen : t.len = s.len := congrArg (·.n.toNat) hfft
  constructor
  · rw [hlen]; exact hcap
  · rw [hfft]; exact herr
  · rw [hlen, hfft]; exact hpeak
  · rw [hlen, hmem]; exact hm

theorem reset_inv : Inv State.reset where
  capacity := Nat.zero_le _
  err := .inl rfl
  peakBand := by decide
  mem := ⟨Memory.reset_wf, rfl, rfl, rfl⟩

/-- A latched code is 1 or 2 (60_exceptions.md R236). -/
theorem Status.code_of_latched {e : Status} (h : latchedStatus e = true) :
    e.code = 1 ∨ e.code = 2 := by
  cases e with
  | notPow2 => exact .inl rfl
  | length => exact .inr rfl
  | ok | illegal | index | fftFault | capacity => cases h

theorem State.latch_inv (h : Inv s) (e : Status) : Inv (s.latch e) := by
  cases he : latchedStatus e with
  | false => rwa [s.latch_of_not_latched e he]
  | true =>
    rw [s.latch_of_latched e he]
    exact ⟨h.capacity, .inr (Status.code_of_latched he), h.peakBand, h.mem⟩

theorem Memory.configured_inv (n : Nat) : MemoryInv (Memory.configured n) n where
  wf := Memory.configured_wf n
  rev := by rw [Memory.configured]
  twsin := by rw [Memory.configured]
  twcos := by rw [Memory.configured]

theorem State.configure_inv (s : State) (n : BitVec 24) (fs : F64)
    (fits : n.toNat ≤ Config.nMax) : Inv (s.configure n fs) where
  capacity := fits
  err := .inl rfl
  peakBand := by simp [FftRegs.configured]
  mem := Memory.configured_inv n.toNat

theorem State.forward_inv (h : Inv s) (buffer : List F64) (hp : isPow2 s.len = true) :
    Inv (s.forward buffer) where
  capacity := h.capacity
  err := h.err
  peakBand := by
    have hband := peakOf_band_lt (magnitudes s.draws s.len (forwardWave buffer s))
    rw [magnitudes, List.length_map, List.length_range] at hband
    exact Nat.lt_of_le_of_lt (BitVec.toNat_ofNat .. ▸ Nat.mod_le ..) hband
  mem := ⟨s.forward_wf buffer h.mem.wf hp, h.mem.rev, h.mem.twsin, h.mem.twcos⟩

theorem Inv.effect {i : Instr} (h : Inv s) (ht : Effect i s t) : Inv t := by
  cases ht with
  | raised e => exact (State.latch_inv h e).of_eq rfl rfl
  | configured n fs _ fits => exact (s.configure_inv n fs fits).of_eq rfl rfl
  | transformed buffer _ hp => exact (State.forward_inv h buffer hp).of_eq rfl rfl
  | recomputed | injected | filtered | answered => exact h.of_eq rfl rfl

theorem Inv.runPacket (h : Inv s) {p : Packet} (ht : runPacket p s = .next t) : Inv t := by
  obtain ⟨i, -, hi⟩ | ⟨e, -, he⟩ := runPacket_cases p s
  · exact h.effect (exec_effect (hi ▸ ht))
  · exact h.effect (i := .bqClear) (.of_raise_unlatched rfl (he ▸ ht))

/-! ### The spectrum -/

/-- The spectrum's invariant does not read the latch, nor anything beside the FFTEngine. -/
theorem SpectrumOk.of_eq (h : SpectrumOk s) (hlen : t.len = s.len)
    (hpeak : t.fft.peak = s.fft.peak) (hband : t.fft.peakBand = s.fft.peakBand)
    (hmem : t.mem = s.mem) : SpectrumOk t := by
  unfold SpectrumOk at h ⊢
  rwa [hlen, hpeak, hband, hmem]

theorem State.forward_spectrumOk (s : State) (buffer : List F64) :
    SpectrumOk (s.forward buffer) :=
  ⟨s.draws, rfl, rfl, rfl, rfl⟩

theorem State.latch_spectrumOk (h : SpectrumOk s) (e : Status) : SpectrumOk (s.latch e) := by
  cases he : latchedStatus e with
  | false => rwa [s.latch_of_not_latched e he]
  | true => rw [s.latch_of_latched e he]; exact h.of_eq rfl rfl rfl rfl

theorem SpectrumOk.effect {i : Instr} (h : SpectrumOk s) (hi : ∀ n fs, i ≠ .fftCfg n fs)
    (ht : Effect i s t) : SpectrumOk t := by
  cases ht with
  | raised e => exact (State.latch_spectrumOk h e).of_eq rfl rfl rfl rfl
  | configured n fs cmd => exact absurd cmd (hi n fs)
  | transformed buffer => exact (s.forward_spectrumOk buffer).of_eq rfl rfl rfl rfl
  | recomputed | injected | filtered | answered => exact h.of_eq rfl rfl rfl rfl

/-! ### The coefficients -/

theorem DesignOk.of_eq (h : DesignOk s) (hpar : t.par = s.par) (hcoef : t.coef = s.coef) :
    DesignOk t := by
  unfold DesignOk at h ⊢
  rwa [hpar, hcoef]

theorem State.withParams_designOk (s : State) (p : BqParams) : DesignOk (s.withParams p) :=
  ⟨s.draws, rfl⟩

theorem DesignOk.effect {i : Instr} (h : DesignOk s)
    (hi : ∀ a0 b0 b1 b2 a1 a2, i ≠ .bqCoeffs a0 b0 b1 b2 a1 a2) (ht : Effect i s t) :
    DesignOk t := by
  cases ht with
  | raised e => exact h.of_eq (s.latch_par e) (s.latch_coef e)
  | recomputed p => exact (s.withParams_designOk p).of_eq rfl rfl
  | injected c cmd => exact absurd cmd (hi _ _ _ _ _ _)
  | configured | transformed | filtered | answered => exact h.of_eq rfl rfl

/-! ### The fault latch -/

theorem State.faulted_iff (s : State) : s.faulted = true ↔ s.fft.err ≠ 0 := by
  simp [State.faulted]

theorem Effect.err_eq {i : Instr} (ht : Effect i s t) (hs : s.faulted = true)
    (hi : ∀ n fs, i ≠ .fftCfg n fs) : t.fft.err = s.fft.err := by
  cases ht with
  | raised e first =>
    have he : latchedStatus e = false := by
      by_contra hl
      simp [first (by simpa using hl)] at hs
    rw [s.latch_of_not_latched e he, State.respond_fft]
  | configured n fs cmd => exact absurd cmd (hi n fs)
  | transformed | recomputed | injected | filtered | answered => rfl

end Sys2Proof.Machine
end

section
/-! SUPPORT. The statements about the state and its invariants (10_state.md). -/

namespace Sys2Proof.Machine

/-- Settles O52: the host's reset gives the invariant anew, and a packet keeps it by the effect of its
command. -/
theorem everyStepKeepsTheInvariant : Obligations.EveryStepKeepsTheInvariant := by
  unfold Obligations.EveryStepKeepsTheInvariant
  intro s t h ht
  obtain ⟨-, hs⟩ | ⟨_, rest, -, hs⟩ | ⟨p, rest, -, hs⟩ := step_cases s <;> rw [hs] at ht
  · obtain rfl := Host.Outcome.next.inj ht
    exact h
  · obtain rfl := Host.Outcome.next.inj ht
    exact reset_inv.of_eq rfl rfl
  · exact Inv.runPacket (s := { s with inbox := rest }) (h.of_eq rfl rfl) ht

/-- Settles O53: a completed `FFT.FWD` writes the spectrum of the wave it writes, and every other
effect but the configuration leaves both alone. -/
theorem spectrumDescribesTheFrame : Obligations.SpectrumDescribesTheFrame := by
  unfold Obligations.SpectrumDescribesTheFrame
  refine ⟨fun s t buffer hinv herr hp hlen ht => ?_,
    fun s t i _ h hi ht => h.effect hi (exec_effect ht)⟩
  have hs : s.faulted = false := by simp [State.faulted, herr]
  have hf : transformFault s buffer.length s.len = none :=
    (transformFault_none_iff ..).mpr ⟨hs, hp, hlen⟩
  obtain rfl := Host.Outcome.next.inj ((exec_fftFwd_of_checks hf hinv.mem.wf).symm.trans ht)
  exact (s.forward_spectrumOk buffer).of_eq rfl rfl rfl rfl

/-- Settles O54: a recomputing command ends in a recompute of the parameters it stores, and only
`BQ.COEFFS` writes coefficients otherwise. -/
theorem coefficientsAreTheRecompute : Obligations.CoefficientsAreTheRecompute := by
  unfold Obligations.CoefficientsAreTheRecompute
  refine ⟨fun s t i hw hi ht => ?_, fun s t i h hi ht => h.effect hi (exec_effect ht)⟩
  obtain ⟨p, hp⟩ := exec_of_recomputingCommand s hw hi
  obtain rfl := Host.Outcome.next.inj (hp.symm.trans ht)
  exact (s.withParams_designOk p).of_eq rfl rfl

/-- Settles O58: a status that is latched is raised only where nothing is latched yet. -/
theorem latchKeepsTheFirstFault : Obligations.LatchKeepsTheFirstFault := by
  unfold Obligations.LatchKeepsTheFirstFault
  intro s t i herr hi ht
  have hs : s.faulted = true := s.faulted_iff.mpr herr
  refine ⟨(exec_effect ht).err_eq hs hi, fun hcmd => ?_⟩
  rw [exec_of_faulted hs hcmd] at ht
  exact raise_eq_next_iff.mp ht

/-- Settles O51: at length 0 the arrays and the spectrum are empty, and the coefficients are the
recompute with the ROM's draw. -/
theorem invariantHoldsAtReset : Obligations.InvariantHoldsAtReset :=
  ⟨reset_inv, ⟨Config.romDraw, rfl, rfl, rfl, rfl⟩, ⟨Config.romDraw, rfl⟩⟩

/-- The reset value of `BQ_F0` is a quarter of that of `BQ_FS` (10_state.md R42). -/
theorem fdiv_sixty_four : fifteen = fdiv 0 sixty four := by decide +kernel

/-- Settles O59: each value is the one the reset state writes out. -/
theorem resetLeavesTheStatedValues : Obligations.ResetLeavesTheStatedValues :=
  ⟨rfl, rfl, rfl, rfl, rfl, fdiv_sixty_four⟩

end Sys2Proof.Machine
end

section
/-! SUPPORT. The bytes of a packet and what decodes (20_memory.md R55, 30_encoding.md R83, R85). -/

namespace Sys2Proof

/-- The `k` bytes of a number hold its value below `256^k`. -/
theorem natOfBytes_bytesOfNat (k n : Nat) : natOfBytes (bytesOfNat k n) = n % 256 ^ k := by
  induction k generalizing n with
  | zero => simp [bytesOfNat, natOfBytes, Nat.mod_one]
  | succ k ih =>
    have hsplit : n % 256 ^ (k + 1) = n % 256 + 256 * (n / 256 % 256 ^ k) := by
      rw [Nat.pow_succ', Nat.mod_mul]
    rw [bytesOfNat, natOfBytes, ih, BitVec.toNat_ofNat, hsplit]

/-- A word of whole bytes is the number its bytes hold. -/
theorem ofNat_natOfBytes_bytesOfNat (k : Nat) (w : BitVec (8 * k)) :
    BitVec.ofNat (8 * k) (natOfBytes (bytesOfNat k w.toNat)) = w := by
  have hw : w.toNat < 256 ^ k := by simpa [Nat.pow_mul] using w.isLt
  rw [natOfBytes_bytesOfNat, Nat.mod_eq_of_lt hw, BitVec.ofNat_toNat, BitVec.setWidth_eq]

/-- Eight bytes in front are one more word in front. -/
theorem wordsOfBytes_bytesOfNat_append (w : F64) (rest : List Byte) :
    wordsOfBytes (bytesOfNat 8 w.toNat ++ rest) = (wordsOfBytes rest).map (w :: ·) := by
  have hw : BitVec.ofNat 64 (natOfBytes (bytesOfNat 8 w.toNat)) = w :=
    ofNat_natOfBytes_bytesOfNat 8 w
  calc wordsOfBytes (bytesOfNat 8 w.toNat ++ rest)
    _ = (wordsOfBytes rest).map
          (BitVec.ofNat 64 (natOfBytes (bytesOfNat 8 w.toNat)) :: ·) := rfl
    _ = (wordsOfBytes rest).map (w :: ·) := by rw [hw]

/-- The byte form of operand words holds the words. -/
theorem wordsOfBytes_flatMap_bytesOfNat (ws : List F64) :
    wordsOfBytes (ws.flatMap fun w => bytesOfNat 8 w.toNat) = some ws := by
  induction ws with
  | nil => rfl
  | cons w ws ih => rw [List.flatMap_cons, wordsOfBytes_bytesOfNat_append, ih, Option.map_some]

/-- Four bytes in front of operand words are the command word. -/
theorem Packet.ofBytes_bytesOfNat_append (cw : CmdWord) (rest : List Byte) :
    Packet.ofBytes (bytesOfNat 4 cw.toNat ++ rest) =
      (wordsOfBytes rest).map (Packet.mk cw) := by
  have hcw : BitVec.ofNat 32 (natOfBytes (bytesOfNat 4 cw.toNat)) = cw :=
    ofNat_natOfBytes_bytesOfNat 4 cw
  calc Packet.ofBytes (bytesOfNat 4 cw.toNat ++ rest)
    _ = (wordsOfBytes rest).map
          (Packet.mk (BitVec.ofNat 32 (natOfBytes (bytesOfNat 4 cw.toNat)))) := rfl
    _ = (wordsOfBytes rest).map (Packet.mk cw) := by rw [hcw]

theorem Packet.ofBytes_toBytes (p : Packet) : Packet.ofBytes p.toBytes = some p := by
  rw [Packet.toBytes, Packet.ofBytes_bytesOfNat_append, wordsOfBytes_flatMap_bytesOfNat,
    Option.map_some]

/-- A packet decodes to `i` exactly when its opcode is assigned and builds `i`, and the checks of
30_encoding.md R85 (b) and (c) pass. -/
theorem decode_eq_ok_iff (p : Packet) (i : Instr) :
    decode p = .ok i ↔
      ∃ op, Op.ofCode (CmdWord.opc p.cw) = some op ∧ CmdWord.low p.cw &&& op.zeroMask = 0 ∧
        (op = .bqSet →
          typeFieldOk (fieldType (CmdWord.low p.cw)) (fieldPm (CmdWord.low p.cw)) = true) ∧
        op.build (CmdWord.low p.cw) p.ops = some i := by
  unfold decode
  cases Op.ofCode (CmdWord.opc p.cw) with
  | none => simp
  | some op =>
    simp only [Option.some.injEq, exists_eq_left']
    split
    next hz => simp only [reduceCtorEq, hz, false_and]
    next hz =>
      split
      next ht => simp [ht]
      next ht =>
        rw [not_and, Bool.not_eq_false] at ht
        rw [and_iff_right (not_not.mp hz), and_iff_right ht]
        cases op.build (CmdWord.low p.cw) p.ops <;> simp

/-- Only `BQ.SET` builds a `BQ.SET`, with the type and the present mask of its low field and as many
operand words as the mask requires (30_encoding.md R83). -/
theorem Op.build_eq_bqSet {op : Op} {f : BitVec 24} {ops ops' : List F64} {type pm : BitVec 4}
    (h : op.build f ops = some (.bqSet type pm ops')) :
    op = .bqSet ∧ type = fieldType f ∧ pm = fieldPm f ∧
      ops'.length = presentCount (fieldPm f) := by
  cases op with
  | bqSet =>
    obtain ⟨hlen, hset⟩ := (Option.ite_none_right_eq_some ..).mp h
    cases hset
    exact ⟨rfl, rfl, rfl, hlen⟩
  | fftFwd | fftInv | bqProcess => cases h
  | rd | fftBandf | bqSetType | bqRecompute | bqClear => cases ops <;> cases h
  | fftCfg | bqSetFreq | bqSetQ | bqSetGain | bqSetBw | bqSetFs | bqTick =>
    obtain _ | ⟨x, _ | ⟨y, ys⟩⟩ := ops <;> cases h
  | bqCoeffs =>
    obtain _ | ⟨a0, _ | ⟨b0, _ | ⟨b1, _ | ⟨b2, _ | ⟨a1, _ | ⟨a2, _ | ⟨y, ys⟩⟩⟩⟩⟩⟩⟩ := ops <;>
      cases h

/-- A packet decodes to well-formed commands only (30_encoding.md R85 (c), (d)). -/
theorem wf_of_decode {p : Packet} {i : Instr} (h : decode p = .ok i) : i.wf = true := by
  obtain ⟨op, -, -, htype, hbuild⟩ := (decode_eq_ok_iff p i).mp h
  cases i with
  | bqSet type pm ops =>
    obtain ⟨rfl, rfl, rfl, hlen⟩ := Op.build_eq_bqSet hbuild
    simp [Instr.wf, htype rfl, hlen]
  | rd | fftCfg | fftFwd | fftInv | fftBandf | bqSetType | bqSetFreq | bqSetQ | bqSetGain | bqSetBw
  | bqSetFs | bqRecompute | bqCoeffs | bqTick | bqProcess | bqClear => rfl

end Sys2Proof

namespace Sys2Proof.Machine

/-- A packet that decodes runs its command (20_memory.md R60). -/
theorem runPacket_of_decode {p : Packet} {i : Instr} (h : decode p = .ok i) (s : State) :
    runPacket p s = exec i s := by
  rw [runPacket, h]

/-- With a packet next, a step takes it from the host's inputs and runs it. -/
theorem step_of_packet {s : State} {p : Packet} {rest : List HostInput}
    (h : s.inbox = .packet p :: rest) : step s = runPacket p { s with inbox := rest } := by
  rw [step, State.nextInput, h]

end Sys2Proof.Machine
end

section
/-! SUPPORT. Noninterference of the two units (20_memory.md R61): a command of one unit commutes
with replacing the state of the other. -/

namespace Sys2Proof.Machine

/-- The state with the filter's parameters, coefficients and memory replaced. -/
def State.withFilter (par : BqParams) (coef : Coeffs) (hist : History) (s : State) : State :=
  { s with par := par, coef := coef, hist := hist }

/-- The state with the FFTEngine's scalars and arrays replaced. -/
def State.withEngine (fft : FftRegs) (mem : Memory) (s : State) : State :=
  { s with fft := fft, mem := mem }

/-- An outcome with its next state changed; a stop stays as it is. -/
def mapNext (f : State → State) : Outcome → Outcome
  | .next s    => .next (f s)
  | .fault r   => .fault r
  | .refused r => .refused r

variable {i : Instr} {s t : State} {par : BqParams} {coef : Coeffs} {hist : History}
  {fft : FftRegs} {mem : Memory}

/-! ### The FFT commands and the filter -/

@[simp] theorem State.withFilter_len : (s.withFilter par coef hist).len = s.len := rfl
@[simp] theorem State.withFilter_mem : (s.withFilter par coef hist).mem = s.mem := rfl

/-- The checks of a transform read the FFTEngine only. -/
@[simp] theorem transformFault_withFilter (k want : Nat) :
    transformFault (s.withFilter par coef hist) k want = transformFault s k want := rfl

theorem raise_withFilter (e : Status) :
    raise e (s.withFilter par coef hist) =
      mapNext (State.withFilter par coef hist) (raise e s) := by
  cases e <;> rfl

theorem execFftCfg_withFilter (n : BitVec 24) (fs : F64) :
    execFftCfg n fs (s.withFilter par coef hist) =
      mapNext (State.withFilter par coef hist) (execFftCfg n fs s) := by
  simp only [execFftCfg, apply_ite (mapNext _), ← raise_withFilter]
  rfl

theorem execFftFwd_withFilter (buffer : List F64) :
    execFftFwd buffer (s.withFilter par coef hist) =
      mapNext (State.withFilter par coef hist) (execFftFwd buffer s) := by
  simp only [execFftFwd, transformFault_withFilter, State.withFilter_len, State.withFilter_mem]
  cases transformFault s buffer.length s.len with
  | some e => exact raise_withFilter e
  | none =>
    rw [apply_ite (mapNext _)]
    rfl

theorem execFftInv_withFilter (src : BitVec 2) (ops : List F64) :
    execFftInv src ops (s.withFilter par coef hist) =
      mapNext (State.withFilter par coef hist) (execFftInv src ops s) := by
  simp only [execFftInv, transformFault_withFilter, State.withFilter_len, State.withFilter_mem]
  cases transformFault s ops.length (s.len * srcCount src) with
  | some e => exact raise_withFilter e
  | none =>
    rw [apply_ite (mapNext _)]
    rfl

theorem execFftBandf_withFilter (idx : BitVec 24) :
    execFftBandf idx (s.withFilter par coef hist) =
      mapNext (State.withFilter par coef hist) (execFftBandf idx s) := by
  simp only [execFftBandf, apply_ite (mapNext _), ← raise_withFilter]
  rfl

/-- An FFT command does the same to the rest whatever the filter holds. -/
theorem exec_withFilter (h : fftCommand i = true) :
    exec i (s.withFilter par coef hist) =
      mapNext (State.withFilter par coef hist) (exec i s) := by
  cases i with
  | fftCfg n fs => exact execFftCfg_withFilter n fs
  | fftFwd buffer => exact execFftFwd_withFilter buffer
  | fftInv src ops => exact execFftInv_withFilter src ops
  | fftBandf idx => exact execFftBandf_withFilter idx
  | rd | bqSet | bqSetType | bqSetFreq | bqSetQ | bqSetGain | bqSetBw | bqSetFs | bqRecompute
  | bqCoeffs | bqTick | bqProcess | bqClear => cases h

/-- An FFT command writes no part of the filter: replacing the filter by itself commutes with it. -/
theorem exec_fftCommand_filter_eq (h : fftCommand i = true) (ht : exec i s = .next t) :
    t.par = s.par ∧ t.coef = s.coef ∧ t.hist = s.hist := by
  have hself : t = t.withFilter s.par s.coef s.hist :=
    Host.Outcome.next.inj (ht.symm.trans ((exec_withFilter h).trans (congrArg (mapNext _) ht)))
  rw [hself]
  exact ⟨rfl, rfl, rfl⟩

/-! ### The filter's commands and the FFTEngine -/

/-- A command of the filter does the same to the rest whatever the FFTEngine holds. -/
theorem exec_withEngine (h : bqCommand i = true) :
    exec i (s.withEngine fft mem) = mapNext (State.withEngine fft mem) (exec i s) := by
  cases i with
  | bqSet type pm ops =>
    simp only [exec, execBqSet]
    cases setArgs type pm ops <;> rfl
  | bqSetType | bqSetFreq | bqSetQ | bqSetGain | bqSetBw | bqSetFs | bqRecompute | bqCoeffs | bqTick
  | bqProcess | bqClear => rfl
  | rd | fftCfg | fftFwd | fftInv | fftBandf => cases h

/-- A command of the filter writes no part of the FFTEngine, by the same argument. -/
theorem exec_bqCommand_engine_eq (h : bqCommand i = true) (ht : exec i s = .next t) :
    t.fft = s.fft ∧ t.mem = s.mem := by
  have hself : t = t.withEngine s.fft s.mem :=
    Host.Outcome.next.inj (ht.symm.trans ((exec_withEngine h).trans (congrArg (mapNext _) ht)))
  rw [hself]
  exact ⟨rfl, rfl⟩

/-- A command of the filter does not stop. -/
theorem exec_bqCommand_next (s : State) (h : bqCommand i = true) : ∃ t, exec i s = .next t := by
  cases i with
  | bqSet type pm ops =>
    simp only [exec, execBqSet]
    cases setArgs type pm ops with
    | none => exact ⟨_, raise_eq ..⟩
    | some a => exact ⟨_, answer_eq ..⟩
  | bqSetType | bqSetFreq | bqSetQ | bqSetGain | bqSetBw | bqSetFs | bqRecompute | bqCoeffs | bqTick
  | bqProcess | bqClear => exact ⟨_, rfl⟩
  | rd | fftCfg | fftFwd | fftInv | fftBandf => cases h

end Sys2Proof.Machine
end

section
/-! SUPPORT. The statements about the organisation of memory and the command port (20_memory.md). -/

namespace Sys2Proof.Machine

/-- Settles O50: a command of one unit commutes with replacing the state of the other, so it neither
reads nor writes it. -/
theorem unitsShareNothing : Obligations.UnitsShareNothing := by
  unfold Obligations.UnitsShareNothing
  refine ⟨fun i s par coef hist t hi ht => ?_, fun i s par coef hist r hi hr => ?_,
    fun i s fft mem t hi ht => ?_, fun i s r hi hr => ?_⟩
  · obtain ⟨hpar, hcoef, hhist⟩ := exec_fftCommand_filter_eq hi ht
    exact ⟨hpar, hcoef, hhist, (exec_withFilter hi).trans (congrArg (mapNext _) ht)⟩
  · exact (exec_withFilter hi).trans (congrArg (mapNext _) hr)
  · obtain ⟨hfft, hmem⟩ := exec_bqCommand_engine_eq hi ht
    exact ⟨hfft, hmem, (exec_withEngine hi).trans (congrArg (mapNext _) ht)⟩
  · obtain ⟨t, ht⟩ := exec_bqCommand_next s hi
    cases ht.symm.trans hr

/-- Settles O5: reading the bytes back gives each word its number, below its width. -/
theorem packetBytesHoldThePacket : Obligations.PacketBytesHoldThePacket := by
  unfold Obligations.PacketBytesHoldThePacket
  intro p
  have hp := p.ofBytes_toBytes
  exact ⟨hp, by rw [decodeBytes, hp]⟩

/-- Settles O1: the step takes the packet, and a packet that decodes runs its command. -/
theorem stepRunsTheDecodedCommand : Obligations.StepRunsTheDecodedCommand := by
  unfold Obligations.StepRunsTheDecodedCommand
  intro s p rest i hin hp
  exact ⟨(step_of_packet hin).trans (runPacket_of_decode hp _), wf_of_decode hp⟩

end Sys2Proof.Machine
end

section
/-! SUPPORT. The encoder against the decoder (30_encoding.md R74 to R85): the fields of a word put
together and taken apart, and the command an opcode builds from them. -/

namespace Sys2Proof

/-! ### The command word -/

@[simp] theorem CmdWord.opc_append (code : BitVec 8) (f : BitVec 24) :
    CmdWord.opc (code ++ f) = code :=
  BitVec.extractLsb'_append_eq_left

@[simp] theorem CmdWord.low_append (code : BitVec 8) (f : BitVec 24) :
    CmdWord.low (code ++ f) = f :=
  BitVec.extractLsb'_append_eq_right

/-- A command word is its opcode byte and its low field. -/
theorem CmdWord.opc_append_low (cw : CmdWord) : CmdWord.opc cw ++ CmdWord.low cw = cw :=
  BitVec.extractLsb'_append_extractLsb' (w := 8) (len := 24)

@[simp] theorem opc_encode (i : Instr) : CmdWord.opc (encode i).cw = i.op.code :=
  CmdWord.opc_append ..

@[simp] theorem low_encode (i : Instr) : CmdWord.low (encode i).cw = i.low :=
  CmdWord.low_append ..

/-! ### The opcode byte (30_encoding.md R81) -/

/-- The opcode bytes are distinct. -/
@[simp] theorem Op.ofCode_code (op : Op) : Op.ofCode op.code = some op := by
  cases op <;> rfl

theorem Op.code_eq_of_ofCode {b : BitVec 8} {op : Op} (h : Op.ofCode b = some op) :
    op.code = b := by
  rw [Op.ofCode] at h
  simpa using List.find?_some h

/-! ### The fields of each format (30_encoding.md R78 to R80) -/

@[simp] theorem fieldSpace_append (space : BitVec 4) (idx : BitVec 20) :
    fieldSpace (space ++ idx) = space :=
  BitVec.extractLsb'_append_eq_left

@[simp] theorem fieldIdx_append (space : BitVec 4) (idx : BitVec 20) :
    fieldIdx (space ++ idx) = idx :=
  BitVec.extractLsb'_append_eq_right

/-- The low field of format R is its two fields. -/
theorem fieldSpace_append_fieldIdx (f : BitVec 24) : fieldSpace f ++ fieldIdx f = f :=
  BitVec.extractLsb'_append_extractLsb' (w := 4) (len := 20)

@[simp] theorem fieldSrc_append (z : BitVec 22) (src : BitVec 2) : fieldSrc (z ++ src) = src :=
  BitVec.extractLsb'_append_eq_right

@[simp] theorem fieldType_append (z : BitVec 20) (type : BitVec 4) :
    fieldType (z ++ type) = type :=
  BitVec.extractLsb'_append_eq_right

@[simp] theorem fieldType_append_append (z : BitVec 16) (pm type : BitVec 4) :
    fieldType (z ++ (pm ++ type)) = type := by
  rw [fieldType, BitVec.extractLsb'_append_eq_of_add_le (by decide),
    BitVec.extractLsb'_append_eq_right]

@[simp] theorem fieldPm_append_append (z : BitVec 16) (pm type : BitVec 4) :
    fieldPm (z ++ (pm ++ type)) = pm := by
  rw [fieldPm, BitVec.extractLsb'_append_eq_of_add_le (by decide),
    BitVec.extractLsb'_append_eq_left]

/-- The fields `PM` and `TYPE` are the low byte (30_encoding.md R79). -/
theorem fieldPm_append_fieldType (f : BitVec 24) :
    fieldPm f ++ fieldType f = f.extractLsb' 0 8 :=
  BitVec.extractLsb'_append_extractLsb'_eq_extractLsb' rfl

/-! ### The "zero" fields (30_encoding.md R88) -/

/-- A mask of low ones keeps the low bits and clears the rest. -/
theorem and_zero_append_allOnes {k m : Nat} (f : BitVec (k + m)) :
    f &&& (0#k ++ BitVec.allOnes m) = 0#k ++ f.extractLsb' 0 m := by
  conv_lhs => rw [← BitVec.extractLsb'_append_extractLsb' (x := f)]
  rw [BitVec.and_append, BitVec.and_zero, BitVec.and_allOnes]

/-- Clearing the bits of a mask changes nothing exactly where they are clear. -/
theorem and_not_eq_self_iff {w : Nat} (f m : BitVec w) : f &&& ~~~m = f ↔ f &&& m = 0 := by
  simp only [BitVec.eq_of_getElem_eq_iff]
  refine forall₂_congr fun i hi => ?_
  simp

/-! ### The command an opcode builds -/

/-- The opcode of a well-formed command builds it from its low field and its operands. -/
theorem Op.build_low_operands {i : Instr} (h : i.wf = true) :
    i.op.build i.low i.operands = some i := by
  cases i with
  | rd space idx =>
    calc Op.build .rd (space ++ idx) []
      _ = some (.rd (fieldSpace (space ++ idx)) (fieldIdx (space ++ idx))) := rfl
      _ = some (.rd space idx) := by rw [fieldSpace_append, fieldIdx_append]
  | fftInv src ops =>
    calc Op.build .fftInv (0#22 ++ src) ops
      _ = some (.fftInv (fieldSrc (0#22 ++ src)) ops) := rfl
      _ = some (.fftInv src ops) := by rw [fieldSrc_append]
  | bqSet type pm ops =>
    simp only [Instr.wf, Bool.and_eq_true, beq_iff_eq] at h
    obtain ⟨-, hcount⟩ := h
    calc Op.build .bqSet (0#16 ++ (pm ++ type)) ops
      _ = if ops.length = presentCount (fieldPm (0#16 ++ (pm ++ type))) then
            some (.bqSet (fieldType (0#16 ++ (pm ++ type))) (fieldPm (0#16 ++ (pm ++ type))) ops)
          else none := rfl
      _ = some (.bqSet type pm ops) := by
          rw [fieldType_append_append, fieldPm_append_append, if_pos hcount]
  | bqSetType type =>
    calc Op.build .bqSetType (0#20 ++ type) []
      _ = some (.bqSetType (fieldType (0#20 ++ type))) := rfl
      _ = some (.bqSetType type) := by rw [fieldType_append]
  | fftCfg | fftFwd | fftBandf | bqSetFreq | bqSetQ | bqSetGain | bqSetBw | bqSetFs | bqRecompute
  | bqCoeffs | bqTick | bqProcess | bqClear => rfl

/-- What an opcode builds is a command of that opcode, with those operands and the low field, its
"zero" bits cleared. -/
theorem Op.build_eq_some {op : Op} {f : BitVec 24} {ops : List F64} {i : Instr}
    (h : op.build f ops = some i) :
    i.op = op ∧ i.operands = ops ∧ i.low = f &&& ~~~op.zeroMask := by
  cases op with
  | rd =>
    cases ops <;> cases h
    exact ⟨rfl, rfl, (fieldSpace_append_fieldIdx f).trans BitVec.and_allOnes.symm⟩
  | fftCfg =>
    obtain _ | ⟨x, _ | ⟨y, ys⟩⟩ := ops <;> cases h
    exact ⟨rfl, rfl, BitVec.and_allOnes.symm⟩
  | fftBandf =>
    cases ops <;> cases h
    exact ⟨rfl, rfl, BitVec.and_allOnes.symm⟩
  | fftInv =>
    cases h
    exact ⟨rfl, rfl, (and_zero_append_allOnes (k := 22) (m := 2) f).symm⟩
  | bqSet =>
    obtain ⟨-, hset⟩ := (Option.ite_none_right_eq_some ..).mp h
    cases hset
    refine ⟨rfl, rfl, ?_⟩
    rw [Instr.low, fieldPm_append_fieldType]
    exact (and_zero_append_allOnes (k := 16) (m := 8) f).symm
  | bqSetType =>
    cases ops <;> cases h
    exact ⟨rfl, rfl, (and_zero_append_allOnes (k := 20) (m := 4) f).symm⟩
  | fftFwd | bqProcess =>
    cases h
    exact ⟨rfl, rfl, BitVec.and_zero.symm⟩
  | bqRecompute | bqClear =>
    cases ops <;> cases h
    exact ⟨rfl, rfl, BitVec.and_zero.symm⟩
  | bqSetFreq | bqSetQ | bqSetGain | bqSetBw | bqSetFs | bqTick =>
    obtain _ | ⟨x, _ | ⟨y, ys⟩⟩ := ops <;> cases h
    exact ⟨rfl, rfl, BitVec.and_zero.symm⟩
  | bqCoeffs =>
    obtain _ | ⟨a0, _ | ⟨b0, _ | ⟨b1, _ | ⟨b2, _ | ⟨a1, _ | ⟨a2, _ | ⟨y, ys⟩⟩⟩⟩⟩⟩⟩ := ops <;>
      cases h
    exact ⟨rfl, rfl, BitVec.and_zero.symm⟩

/-! ### The round trips -/

/-- The "zero" fields of an encoded command are 0, since building it clears none of its bits. -/
theorem Instr.low_and_zeroMask {i : Instr} (h : i.wf = true) : i.low &&& i.op.zeroMask = 0 := by
  obtain ⟨-, -, hlow⟩ := Op.build_eq_some (Op.build_low_operands h)
  exact (and_not_eq_self_iff ..).mp hlow.symm

/-- A well-formed `BQ.SET` has its type present or 0 (30_encoding.md R85 (c)). -/
theorem typeFieldOk_of_wf {i : Instr} (h : i.wf = true) (hop : i.op = .bqSet) :
    typeFieldOk (fieldType i.low) (fieldPm i.low) = true := by
  cases i with
  | bqSet type pm ops =>
    obtain ⟨htype, -⟩ := Bool.and_eq_true_iff.mp h
    rwa [Instr.low, fieldType_append_append, fieldPm_append_append]
  | rd | fftCfg | fftFwd | fftInv | fftBandf | bqSetType | bqSetFreq | bqSetQ | bqSetGain | bqSetBw
  | bqSetFs | bqRecompute | bqCoeffs | bqTick | bqProcess | bqClear => cases hop

theorem decode_encode {i : Instr} (h : i.wf = true) : decode (encode i) = .ok i := by
  refine (decode_eq_ok_iff (encode i) i).mpr ⟨i.op, ?_⟩
  rw [opc_encode, low_encode]
  exact ⟨i.op.ofCode_code, Instr.low_and_zeroMask h, typeFieldOk_of_wf h, Op.build_low_operands h⟩

theorem encode_of_decode {p : Packet} {i : Instr} (h : decode p = .ok i) : encode i = p := by
  obtain ⟨op, hcode, hzero, -, hbuild⟩ := (decode_eq_ok_iff p i).mp h
  obtain ⟨rfl, hops, hlow⟩ := Op.build_eq_some hbuild
  rw [(and_not_eq_self_iff ..).mpr hzero] at hlow
  rw [encode, Op.code_eq_of_ofCode hcode, hlow, CmdWord.opc_append_low, hops]

end Sys2Proof
end

section
/-! SUPPORT. One response per command, with its number of result words (30_encoding.md R73, R81,
60_exceptions.md R246). -/

namespace Sys2Proof.Machine

/-- From `s` to `t` one response has been given: status 0 with the result words of `i`, or one of its
faults with none. -/
def AnsweredOnce (i : Instr) (s t : State) : Prop :=
  ∃ r : Response, t.responses = s.responses ++ [r] ∧
    ((r.status = .ok ∧ r.words.length = resultCountOf s.len i) ∨
      (r.status ∈ faultsOf i ∧ r.words = []))

variable {i : Instr} {s s' t : State}

theorem AnsweredOnce.of_raise {e : Status} (he : e ∈ faultsOf i) (h : raise e s = .next t) :
    AnsweredOnce i s t := by
  obtain rfl := raise_eq_next_iff.mp h
  exact ⟨⟨e, []⟩, by simp, .inr ⟨he, rfl⟩⟩

/-- Completing from a state with the same responses answers the words. -/
theorem AnsweredOnce.of_answer {words : List (BitVec 64)} (h : answer words s' = .next t)
    (hs : s'.responses = s.responses) (hw : words.length = resultCountOf s.len i) :
    AnsweredOnce i s t := by
  obtain rfl := answer_eq_next_iff.mp h
  exact ⟨⟨.ok, words⟩, by simp [hs], .inl ⟨rfl, hw⟩⟩

/-- The fault of a transform is one of its three. -/
theorem transformFault_mem {k want : Nat} {e : Status} (h : transformFault s k want = some e) :
    e ∈ [Status.notPow2, .length, .fftFault] := by
  obtain ⟨rfl, -⟩ | ⟨rfl, -⟩ | ⟨rfl, -⟩ := transformFault_cases s k want e h <;> decide

/-! ### The number of result words -/

theorem tickOutputs_length (draw : Nat) (c : Coeffs) (h : History) (xs : List F64) :
    (tickOutputs draw c h xs).length = xs.length := by
  induction xs generalizing draw h with
  | nil => rfl
  | cons x xs ih => rw [tickOutputs, List.length_cons, List.length_cons, ih]

/-- `FFT.INV` answers one word per element (41_fft.md R146). -/
theorem inverseOut_length (src : BitVec 2) (ops : List F64) (hw : s.mem.wf s.len = true)
    (hp : isPow2 s.len = true) : (inverseOut src ops s).length = s.len := by
  obtain ⟨-, -, -, -, hrev, -⟩ := (Memory.wf_iff ..).mp hw
  rw [inverseOut, scaledReal, List.length_map, inverseWave, (butterflies_length ..).1, bitReversed,
    List.length_map, hrev, revLen, if_pos hp]

/-! ### The commands one by one -/

theorem execRd_answeredOnce {space : BitVec 4} {idx : BitVec 20}
    (h : execRd space idx s = .next t) : AnsweredOnce (.rd space idx) s t := by
  have hindex : Status.index ∈ faultsOf (.rd space idx) := List.mem_singleton_self _
  unfold execRd readCsr readSpace at h
  split at h
  · split at h
    · exact .of_answer h rfl rfl
    · exact .of_raise hindex h
  · split at h
    · exact .of_raise hindex h
    · split at h
      · exact .of_answer h rfl rfl
      · cases h

theorem execFftCfg_answeredOnce {n : BitVec 24} {fs : F64} (h : execFftCfg n fs s = .next t) :
    AnsweredOnce (.fftCfg n fs) s t := by
  unfold execFftCfg at h
  split at h
  · exact .of_raise (List.mem_singleton_self _) h
  · exact .of_answer h rfl rfl

theorem execFftFwd_answeredOnce {buffer : List F64} (h : execFftFwd buffer s = .next t) :
    AnsweredOnce (.fftFwd buffer) s t := by
  unfold execFftFwd at h
  split at h
  next hf => exact .of_raise (transformFault_mem hf) h
  next =>
    split at h
    · exact .of_answer h rfl rfl
    · cases h

theorem execFftInv_answeredOnce {src : BitVec 2} {ops : List F64}
    (h : execFftInv src ops s = .next t) : AnsweredOnce (.fftInv src ops) s t := by
  unfold execFftInv at h
  split at h
  next hf => exact .of_raise (transformFault_mem hf) h
  next hf =>
    split at h
    next hw =>
      obtain ⟨-, hp, -⟩ := (transformFault_none_iff ..).mp hf
      exact .of_answer h rfl (inverseOut_length src ops hw hp)
    next => cases h

theorem execFftBandf_answeredOnce {idx : BitVec 24} (h : execFftBandf idx s = .next t) :
    AnsweredOnce (.fftBandf idx) s t := by
  unfold execFftBandf at h
  split at h
  · exact .of_raise (List.mem_singleton_self _) h
  · exact .of_answer h rfl rfl

/-- A recomputing command completes with no words: the only other answer of `BQ.SET` is to a term no
packet decodes to. -/
theorem exec_recomputingCommand_answeredOnce (hw : i.wf = true) (hi : recomputingCommand i = true)
    (hn : resultCountOf s.len i = 0) (h : exec i s = .next t) : AnsweredOnce i s t := by
  obtain ⟨p, hp⟩ := exec_of_recomputingCommand s hw hi
  exact .of_answer (s' := s.withParams p) (words := []) (hp.symm.trans h) rfl hn.symm

/-- Every well-formed command that gives a next state has answered once. -/
theorem exec_answeredOnce (hw : i.wf = true) (h : exec i s = .next t) : AnsweredOnce i s t := by
  cases i with
  | rd => exact execRd_answeredOnce h
  | fftCfg => exact execFftCfg_answeredOnce h
  | fftFwd => exact execFftFwd_answeredOnce h
  | fftInv => exact execFftInv_answeredOnce h
  | fftBandf => exact execFftBandf_answeredOnce h
  | bqSet | bqSetType | bqSetFreq | bqSetQ | bqSetGain | bqSetBw | bqSetFs | bqRecompute =>
    exact exec_recomputingCommand_answeredOnce hw rfl rfl h
  | bqCoeffs | bqTick | bqClear => exact .of_answer h rfl rfl
  | bqProcess => exact .of_answer h rfl (tickOutputs_length ..)

end Sys2Proof.Machine
end

section
/-! SUPPORT. The statements about the encoding of commands (30_encoding.md). -/

namespace Sys2Proof.Machine

/-- Settles O3: the word of a command holds its opcode and fields, from which the opcode builds it. -/
theorem decodeOfEncodeIsIdentity : Obligations.DecodeOfEncodeIsIdentity :=
  fun _ hw => decode_encode hw

/-- Settles O4: what an opcode builds keeps the operands and, the "zero" fields being 0, the word. -/
theorem encodeOfDecodeIsIdentity : Obligations.EncodeOfDecodeIsIdentity :=
  fun _ _ h => ⟨encode_of_decode h, wf_of_decode h⟩

/-- Settles O6: each word is evaluated, the last to no assigned opcode. -/
theorem writtenWordsDecode : Obligations.WrittenWordsDecode :=
  ⟨rfl, rfl, rfl, rfl, rfl, rfl, rfl⟩

/-- Settles O56: a command raises one of its faults or completes with its number of words. The
invariant is not needed: `FFT.INV` answers only where the arrays have their lengths. -/
theorem everyCommandAnswersOnce : Obligations.EveryCommandAnswersOnce :=
  fun _ _ _ _ hw h => exec_answeredOnce hw h

end Sys2Proof.Machine
end

section
/-! SUPPORT. The pattern of a binary64: its sign and its magnitude bits, the classes they decide,
and the magnitudes in units of 2^-1074 (00_scope.md R9, 40_numerics.md R104). -/

namespace Sys2Proof.Machine

variable {a b : F64}

/-! ### Sign and magnitude bits -/

/-- A pattern is its sign and its magnitude bits. -/
@[simp] theorem pack_signBit_magBits (a : F64) : pack (signBit a) (magBits a) = a := by
  apply BitVec.eq_of_toNat_eq
  have := a.isLt
  simp only [pack, signBit, magBits, BitVec.msb_eq_decide, BitVec.toNat_ofNat, decide_eq_true_eq]
  split <;> omega

theorem eq_of_signBit_eq_of_magBits_eq (hs : signBit a = signBit b)
    (hm : magBits a = magBits b) : a = b := by
  rw [← pack_signBit_magBits a, hs, hm, pack_signBit_magBits]

@[simp] theorem signBit_flipSign (a : F64) : signBit (flipSign a) = !signBit a := by
  simp [signBit, flipSign, show negZero.msb = true by decide]

theorem magBits_eq_toNat_setWidth (a : F64) : magBits a = (a.setWidth 63).toNat :=
  (BitVec.toNat_setWidth 63 a).symm

@[simp] theorem magBits_flipSign (a : F64) : magBits (flipSign a) = magBits a := by
  rw [magBits_eq_toNat_setWidth, flipSign, BitVec.setWidth_xor,
    show negZero.setWidth 63 = 0#63 by decide, BitVec.xor_zero, ← magBits_eq_toNat_setWidth]

theorem flipSign_eq_pack (a : F64) : flipSign a = pack (!signBit a) (magBits a) := by
  rw [← signBit_flipSign, ← magBits_flipSign a, pack_signBit_magBits]

theorem flipSign_posZero : flipSign posZero = negZero := by decide

theorem pack_zero (s : Bool) : pack s 0 = if s then negZero else posZero := by
  cases s <;> decide

theorem pack_infMag (s : Bool) : pack s infMag = if s then flipSign posInf else posInf := by
  cases s <;> decide

/-! ### The classes -/

theorem isInf_iff : isInf a = true ↔ magBits a = infMag := by simp [isInf]

theorem isZero_iff : isZero a = true ↔ magBits a = 0 := by simp [isZero]

theorem isFinite_iff : isFinite a = true ↔ magBits a < infMag := by simp [isFinite]

@[simp] theorem isNaN_flipSign (a : F64) : isNaN (flipSign a) = isNaN a := by simp [isNaN]

@[simp] theorem isInf_flipSign (a : F64) : isInf (flipSign a) = isInf a := by simp [isInf]

@[simp] theorem isFinite_flipSign (a : F64) : isFinite (flipSign a) = isFinite a := by
  simp [isFinite]

theorem isNaN_eq_false_of_isFinite (h : isFinite a = true) : isNaN a = false := by
  rw [isFinite_iff] at h
  simp [isNaN, h.le]

theorem isInf_eq_false_of_isFinite (h : isFinite a = true) : isInf a = false := by
  rw [isFinite_iff] at h
  simp [isInf, h.ne]

theorem isNaN_eq_false_of_isInf (h : isInf a = true) : isNaN a = false := by
  rw [isInf_iff] at h
  simp [isNaN, h]

theorem isZero_eq_false_of_isInf (h : isInf a = true) : isZero a = false := by
  rw [isInf_iff] at h
  simp [isZero, h, infMag]

theorem isFinite_of_isZero (h : isZero a = true) : isFinite a = true := by
  rw [isZero_iff] at h
  simp [isFinite, h, infMag]

theorem isFinite_of_not_isNaN_of_not_isInf (hn : isNaN a = false) (hi : isInf a = false) :
    isFinite a = true := by
  simp only [isNaN, isInf, isFinite, decide_eq_false_iff_not, decide_eq_true_eq,
    beq_eq_false_iff_ne] at *
  omega

theorem isZero_posZero : isZero posZero = true := by decide
theorem isZero_negZero : isZero negZero = true := by decide
theorem isInf_posInf : isInf posInf = true := by decide
theorem isInf_negInf : isInf (flipSign posInf) = true := by decide
theorem signBit_posInf : signBit posInf = false := by decide
theorem isFinite_negOne : isFinite negOne = true := by decide
theorem isNaN_ten : isNaN ten = false := by decide

/-! ### Magnitudes in units of 2^-1074 -/

/-- The units of the magnitude bits `m`, past the largest finite too: the magnitudes of a format
with no upper bound on the exponent. -/
def magUnits (m : Nat) : Nat :=
  if m / 2 ^ 52 = 0 then m % 2 ^ 52 else (2 ^ 52 + m % 2 ^ 52) * 2 ^ (m / 2 ^ 52 - 1)

theorem units_eq_magUnits (a : F64) : units a = magUnits (magBits a) := rfl

/-- `r` is a significand at the shift `s`: normal, or subnormal at the least shift. It may be the
`2^53` that a carry gives. -/
def IsSignificand (s r : Nat) : Prop := r ≤ 2 ^ 53 ∧ (s = 0 ∨ 2 ^ 52 ≤ r)

/-- The magnitude bits `s·2^52 + r` stand for the significand `r` shifted by `s`. -/
theorem magUnits_significand {s r : Nat} (h : IsSignificand s r) :
    magUnits (s * 2 ^ 52 + r) = r * 2 ^ s := by
  obtain ⟨hr, hs⟩ := h
  unfold magUnits
  rcases Nat.lt_or_ge r (2 ^ 52) with hsub | hnorm
  · obtain rfl : s = 0 := by omega
    rw [if_pos (by omega)]
    omega
  rcases hr.lt_or_eq with hlt | rfl
  · rw [show (s * 2 ^ 52 + r) / 2 ^ 52 = s + 1 by omega,
      show (s * 2 ^ 52 + r) % 2 ^ 52 = r - 2 ^ 52 by omega, if_neg (by omega),
      Nat.add_sub_cancel, Nat.add_sub_cancel' hnorm]
  · rw [show (s * 2 ^ 52 + 2 ^ 53) / 2 ^ 52 = s + 2 by omega,
      show (s * 2 ^ 52 + 2 ^ 53) % 2 ^ 52 = 0 by omega, if_neg (by omega)]
    simp only [Nat.add_zero, Nat.add_succ_sub_one, ← Nat.pow_add]
    congr 1
    omega

/-- Magnitude bits have a significand and a shift. -/
theorem exists_significand (m : Nat) :
    ∃ s r, m = s * 2 ^ 52 + r ∧ r < 2 ^ 53 ∧ IsSignificand s r := by
  refine ⟨m / 2 ^ 52 - 1, m - (m / 2 ^ 52 - 1) * 2 ^ 52, ?_, ?_, ?_, ?_⟩ <;> omega

/-- The magnitude bits are ordered as the magnitudes. -/
theorem magUnits_strictMono : StrictMono magUnits := by
  refine strictMono_nat_of_lt_succ fun m => ?_
  obtain ⟨s, r, rfl, hlt, h⟩ := exists_significand m
  have hsucc : IsSignificand s (r + 1) := ⟨hlt, h.2.imp_right Nat.le_succ_of_le⟩
  rw [Nat.add_assoc, magUnits_significand h, magUnits_significand hsucc]
  exact Nat.mul_lt_mul_of_pos_right (Nat.lt_succ_self r) (Nat.two_pow_pos s)

@[simp] theorem magUnits_zero : magUnits 0 = 0 := rfl

theorem magUnits_eq_zero_iff {m : Nat} : magUnits m = 0 ↔ m = 0 :=
  magUnits_strictMono.injective.eq_iff' magUnits_zero

/-- A magnitude is a multiple of `2^s`, or is below every normal significand shifted by `s`. -/
theorem two_pow_dvd_magUnits_or_lt (s m : Nat) :
    2 ^ s ∣ magUnits m ∨ magUnits m < 2 ^ (52 + s) := by
  obtain ⟨t, r, rfl, hlt, h⟩ := exists_significand m
  rw [magUnits_significand h]
  rcases Nat.lt_or_ge t s with hts | hst
  · right
    calc r * 2 ^ t < 2 ^ 53 * 2 ^ t := Nat.mul_lt_mul_of_pos_right hlt (Nat.two_pow_pos t)
      _ = 2 ^ (53 + t) := (Nat.pow_add ..).symm
      _ ≤ 2 ^ (52 + s) := Nat.pow_le_pow_right (by decide) (by omega)
  · exact .inl (Dvd.dvd.mul_left (Nat.pow_dvd_pow 2 hst) r)

/-- A number of at most 53 bits is a magnitude at every shift. -/
theorem exists_magUnits_eq {k : Nat} (t : Nat) (hk : k < 2 ^ 53) :
    ∃ m, magUnits m = k * 2 ^ t := by
  induction t generalizing k with
  | zero => exact ⟨_, magUnits_significand ⟨hk.le, .inl rfl⟩⟩
  | succ t ih =>
    rcases Nat.lt_or_ge k (2 ^ 52) with hlt | hge
    · obtain ⟨m, hm⟩ := ih (k := 2 * k) (by omega)
      exact ⟨m, by rw [hm, Nat.pow_succ]; ring⟩
    · exact ⟨_, magUnits_significand ⟨hk.le, .inr hge⟩⟩

theorem magUnits_infMag : magUnits infMag = 2 ^ 2098 := by decide +kernel

theorem units_eq_zero_iff : units a = 0 ↔ isZero a = true := by
  rw [units_eq_magUnits, magUnits_eq_zero_iff, isZero_iff]

theorem units_pos (h : isZero a = false) : 0 < units a :=
  Nat.pos_of_ne_zero (by rw [Ne, units_eq_zero_iff, h]; decide)

theorem signedUnits_of_isZero (h : isZero a = true) : signedUnits a = 0 := by
  simp [signedUnits, units_eq_zero_iff.mpr h]

@[simp] theorem units_flipSign (a : F64) : units (flipSign a) = units a := by
  rw [units_eq_magUnits, magBits_flipSign, units_eq_magUnits]

@[simp] theorem signedUnits_flipSign (a : F64) : signedUnits (flipSign a) = -signedUnits a := by
  cases h : signBit a <;> simp [signedUnits, h]

@[simp] theorem natAbs_signedUnits (a : F64) : (signedUnits a).natAbs = units a := by
  unfold signedUnits; split <;> simp

/-- The sign of a non-zero value is that of its pattern. -/
theorem signedUnits_neg_iff (h : isZero a = false) : signedUnits a < 0 ↔ signBit a = true := by
  cases hs : signBit a
  · simp [signedUnits, hs]
  · simpa [signedUnits, hs] using units_pos h

end Sys2Proof.Machine
end

section
/-! SUPPORT. The one rounding of the arithmetic: the rounded magnitude is the nearest of a format
with no upper bound on the exponent, cut off at an infinity (40_numerics.md R101). -/

namespace Sys2Proof.Machine

variable {num den m : Nat}

/-! ### Distances -/

/-- The distance of `u` scaled units is the distance of `u` with the scale in the denominator. -/
theorem distance_mul (u k num den : Nat) :
    distance (u * k) num den = distance u num (den * k) := by
  unfold distance
  push_cast
  congr 1
  ring

theorem mul_add_self_le_of_lt {k r : Nat} (den : Nat) (h : k < r) : k * den + den ≤ r * den := by
  rw [← Nat.succ_mul]
  exact Nat.mul_le_mul_right den h

/-- Below the quotient, the greater is strictly nearer. -/
theorem distance_lt_of_lt {u v : Nat} (hden : 0 < den) (hvu : v < u) (hu : u * den ≤ num) :
    distance u num den < distance v num den := by
  have hlt : v * den < u * den := Nat.mul_lt_mul_of_pos_right hvu hden
  unfold distance
  rw [← Nat.cast_mul, ← Nat.cast_mul]
  omega

theorem distance_eq_zero_iff {u : Nat} : distance u num den = 0 ↔ u * den = num := by
  unfold distance
  rw [← Nat.cast_mul]
  omega

/-! ### A quotient rounded to an integer -/

/-- A rounded quotient is at most half a unit from the quotient, and even where it is half a unit.
-/
theorem roundQuot_bounds (num : Nat) (hden : 0 < den) :
    2 * num ≤ 2 * (roundQuot num den * den) + den ∧
    2 * (roundQuot num den * den) ≤ 2 * num + den ∧
    (2 * num = 2 * (roundQuot num den * den) + den ∨
      2 * (roundQuot num den * den) = 2 * num + den → roundQuot num den % 2 = 0) := by
  have hdiv : num / den * den + num % den = num := Nat.div_add_mod' num den
  have hmod : num % den < den := Nat.mod_lt _ hden
  simp only [roundQuot]
  split
  · rw [Nat.add_one_mul (num / den)]
    omega
  · omega

/-- A rounded quotient is the nearest integer, ties to even. -/
theorem roundQuot_nearest (num k : Nat) (hden : 0 < den) :
    distance (roundQuot num den) num den ≤ distance k num den ∧
    (distance (roundQuot num den) num den = distance k num den → k ≠ roundQuot num den →
      roundQuot num den % 2 = 0) := by
  obtain ⟨hlow, hhigh, heven⟩ := roundQuot_bounds num hden
  generalize roundQuot num den = r at *
  unfold distance
  rw [← Nat.cast_mul, ← Nat.cast_mul]
  rcases Nat.lt_trichotomy k r with hlt | rfl | hgt
  · have hk := mul_add_self_le_of_lt den hlt
    omega
  · simp
  · have hk := mul_add_self_le_of_lt den hgt
    omega

theorem roundQuot_le {k : Nat} (hden : 0 < den) (h : num ≤ k * den) :
    roundQuot num den ≤ k := by
  obtain ⟨-, hhigh, -⟩ := roundQuot_bounds num hden
  by_contra! hlt
  have hk := mul_add_self_le_of_lt den hlt
  omega

theorem le_roundQuot {k : Nat} (hden : 0 < den) (h : k * den ≤ num) :
    k ≤ roundQuot num den := by
  obtain ⟨hlow, -, -⟩ := roundQuot_bounds num hden
  by_contra! hlt
  have hk := mul_add_self_le_of_lt den hlt
  omega

/-! ### A quotient rounded to a magnitude -/

/-- `m` is the magnitude nearest to `num / den` units, ties to even, among all magnitude bits: no
exponent is too large. -/
def Nearest (m num den : Nat) : Prop :=
  ∀ c, distance (magUnits m) num den ≤ distance (magUnits c) num den ∧
    (distance (magUnits m) num den = distance (magUnits c) num den → magUnits c ≠ magUnits m →
      m % 2 = 0)

/-- A quotient has at most 53 bits above those it drops. -/
theorem lt_two_pow_dropBits (q : Nat) : q < 2 ^ (53 + dropBits q) := by
  calc q < 2 ^ (Nat.log2 q + 1) := Nat.lt_log2_self
    _ ≤ 2 ^ (53 + dropBits q) := Nat.pow_le_pow_right (by decide) (by unfold dropBits; omega)

/-- Where bits are dropped, a quotient has 53 bits above them. -/
theorem two_pow_dropBits_le {q : Nat} (h : dropBits q ≠ 0) : 2 ^ (52 + dropBits q) ≤ q := by
  have hlog : 52 + dropBits q = Nat.log2 q := by unfold dropBits at *; omega
  have hq : q ≠ 0 := by rintro rfl; exact h rfl
  rw [hlog]
  exact Nat.log2_self_le hq

/-- Where bits are dropped, a normal significand is at most the quotient. -/
theorem two_pow_dropBits_mul_le (h : dropBits (num / den) ≠ 0) :
    2 ^ (52 + dropBits (num / den)) * den ≤ num :=
  (Nat.mul_le_mul_right den (two_pow_dropBits_le h)).trans (Nat.div_mul_le_self num den)

/-- The quotient rounded at the shift of its dropped bits is a significand there. -/
theorem isSignificand_roundQuot (hden : 0 < den) :
    IsSignificand (dropBits (num / den))
      (roundQuot num (den * 2 ^ dropBits (num / den))) := by
  have hscale : 0 < den * 2 ^ dropBits (num / den) := by positivity
  constructor
  · refine roundQuot_le hscale ?_
    calc num ≤ 2 ^ (53 + dropBits (num / den)) * den :=
          ((Nat.div_lt_iff_lt_mul hden).mp (lt_two_pow_dropBits (num / den))).le
      _ = 2 ^ 53 * (den * 2 ^ dropBits (num / den)) := by rw [Nat.pow_add]; ring
  · refine or_iff_not_imp_left.mpr fun h => le_roundQuot hscale ?_
    calc 2 ^ 52 * (den * 2 ^ dropBits (num / den))
        = 2 ^ (52 + dropBits (num / den)) * den := by rw [Nat.pow_add]; ring
      _ ≤ num := two_pow_dropBits_mul_le h

/-- The rounded magnitude before it is cut off at an infinity: on the grid of the shift it is the
nearest by `roundQuot_nearest`, and a magnitude off the grid is below `2^52` grid steps, which are
nearer to the quotient. -/
theorem nearest_roundQuot (hden : 0 < den) :
    Nearest (dropBits (num / den) * 2 ^ 52 + roundQuot num (den * 2 ^ dropBits (num / den)))
      num den := by
  intro c
  have hsig := isSignificand_roundQuot (num := num) hden
  have hbits := two_pow_dropBits_mul_le (num := num) (den := den)
  generalize dropBits (num / den) = s at *
  have hscale : 0 < den * 2 ^ s := by positivity
  rw [magUnits_significand hsig, distance_mul]
  rcases two_pow_dvd_magUnits_or_lt s c with ⟨k, hk⟩ | hlt
  · rw [hk, Nat.mul_comm (2 ^ s) k, distance_mul]
    obtain ⟨hle, heven⟩ := roundQuot_nearest num k hscale
    refine ⟨hle, fun heq hne => ?_⟩
    have := heven heq (by rintro rfl; exact hne rfl)
    omega
  · have hnear := (roundQuot_nearest num (2 ^ 52) hscale).1
    rcases Nat.eq_zero_or_pos s with rfl | hpos
    · obtain ⟨hle, heven⟩ := roundQuot_nearest num (magUnits c) hscale
      simp only [Nat.pow_zero, Nat.mul_one, Nat.zero_mul, Nat.zero_add] at *
      exact ⟨hle, heven⟩
    · have hfar := distance_lt_of_lt hden hlt (hbits hpos.ne')
      rw [Nat.pow_add, distance_mul] at hfar
      exact ⟨(hnear.trans_lt hfar).le, fun heq => absurd heq (hnear.trans_lt hfar).ne⟩

theorem exists_nearest_roundMag (num : Nat) (hden : 0 < den) :
    ∃ m, roundMag num den = min m infMag ∧ Nearest m num den :=
  ⟨_, rfl, nearest_roundQuot hden⟩

/-- The units of the largest finite magnitude. -/
theorem magUnits_infMag_pred : magUnits (infMag - 1) = (2 ^ 54 - 2) * 2 ^ 2044 := by
  decide +kernel

/-- The nearest magnitude is at least an infinity exactly from half way past the largest finite:
that one is odd, so the tie goes up. -/
theorem Nearest.infMag_le_iff (h : Nearest m num den) (hden : 0 < den) :
    infMag ≤ m ↔ overflowUnits * den ≤ num := by
  obtain ⟨habove, heven⟩ := h infMag
  have hbelow := (h (infMag - 1)).1
  have hstep : 0 < 2 ^ 2044 * den := by positivity
  have hinf : magUnits infMag * den = 2 ^ 54 * (2 ^ 2044 * den) := by
    rw [magUnits_infMag, ← Nat.mul_assoc, ← Nat.pow_add]
  have hmax : magUnits (infMag - 1) * den = (2 ^ 54 - 2) * (2 ^ 2044 * den) := by
    rw [magUnits_infMag_pred, Nat.mul_assoc]
  have hover : overflowUnits * den = (2 ^ 54 - 1) * (2 ^ 2044 * den) := by
    rw [overflowUnits, Nat.mul_assoc]
  simp only [distance, ← Nat.cast_mul] at habove heven hbelow
  rw [hover]
  rw [hinf] at habove heven
  rw [hmax] at hbelow
  generalize 2 ^ 2044 * den = step at *
  constructor
  · intro hm
    have hu : magUnits infMag * den ≤ magUnits m * den :=
      Nat.mul_le_mul_right den (magUnits_strictMono.monotone hm)
    omega
  · intro hnum
    by_contra! hm
    have hu : magUnits m * den ≤ magUnits (infMag - 1) * den :=
      Nat.mul_le_mul_right den (magUnits_strictMono.monotone (Nat.le_sub_one_of_lt hm))
    have htop : magUnits m * den = magUnits (infMag - 1) * den := by omega
    have htie := heven (by omega) (magUnits_strictMono.injective.ne hm.ne')
    have hmtop : m = infMag - 1 :=
      magUnits_strictMono.injective (Nat.eq_of_mul_eq_mul_right hden htop)
    rw [hmtop] at htie
    exact absurd htie (by decide)

/-- A magnitude is nearest to itself only. -/
theorem Nearest.eq_of_magUnits {k : Nat} (h : Nearest m (magUnits k * den) den) (hden : 0 < den) :
    m = k := by
  have hzero := (h k).1
  rw [distance_eq_zero_iff.mpr rfl, Nat.le_zero, distance_eq_zero_iff] at hzero
  exact magUnits_strictMono.injective (Nat.eq_of_mul_eq_mul_right hden hzero)

/-- A magnitude of the format is rounded to itself. -/
theorem roundMag_magUnits (k : Nat) (hden : 0 < den) (hk : k ≤ infMag) :
    roundMag (magUnits k * den) den = k := by
  obtain ⟨m, hround, hnear⟩ := exists_nearest_roundMag (magUnits k * den) hden
  rw [hround, hnear.eq_of_magUnits hden, Nat.min_eq_left hk]

theorem RoundsTo.of_overflow {r : F64} {sign : Bool} (hsign : signBit r = sign)
    (hover : overflowUnits * den ≤ num) (hr : magBits r = infMag) : RoundsTo r sign num den := by
  rw [RoundsTo, if_pos hover]
  exact ⟨hsign, hr⟩

theorem RoundsTo.of_nearest {r : F64} {sign : Bool} (hsign : signBit r = sign)
    (hover : num < overflowUnits * den) (hr : isFinite r = true)
    (hnear : Nearest (magBits r) num den) : RoundsTo r sign num den := by
  rw [RoundsTo, if_neg hover.not_ge]
  exact ⟨hsign, hr, fun c _ => hnear (magBits c)⟩

/-- A rounded magnitude with a sign is the value of that sign rounded once. -/
theorem roundsTo_pack_roundMag (sign : Bool) (num : Nat) (hden : 0 < den) :
    RoundsTo (pack sign (roundMag num den)) sign num den := by
  obtain ⟨m, hround, hnear⟩ := exists_nearest_roundMag num hden
  have hlt : roundMag num den < 2 ^ 63 := (roundMag_le num den).trans_lt (by decide)
  have hsign := signBit_pack sign _ hlt
  have hmag := magBits_pack sign _ hlt
  rcases Nat.lt_or_ge m infMag with hfin | hinf
  · rw [hround, Nat.min_eq_left hfin.le] at hsign hmag ⊢
    have hover : num < overflowUnits * den := by
      rwa [← Nat.not_le, ← hnear.infMag_le_iff hden, Nat.not_le]
    exact .of_nearest hsign hover (isFinite_iff.mpr (hmag.trans_lt hfin)) (hmag.symm ▸ hnear)
  · have hover := (hnear.infMag_le_iff hden).mp hinf
    exact .of_overflow hsign hover (by rw [hmag, hround, Nat.min_eq_right hinf])

end Sys2Proof.Machine
end

section
/-! SUPPORT. The rounded square root: the root found bit by bit is the integer root, and the rounded
root is on the nearer side of every midpoint (40_numerics.md R101). -/

namespace Sys2Proof.Machine

variable {x s t m : Nat}

/-- The root found bit by bit from `r` is the integer root, where that is one of the `2^k` from
`r` on. -/
theorem rootBits_eq_sqrt {k n r : Nat} (hlow : r * r ≤ n)
    (hhigh : n < (r + 2 ^ k) * (r + 2 ^ k)) : rootBits k n r = Nat.sqrt n := by
  induction k generalizing r with
  | zero => exact Nat.eq_sqrt.mpr ⟨hlow, hhigh⟩
  | succ k ih =>
    unfold rootBits
    split
    next hle => exact ih hle (by rwa [Nat.add_assoc, ← Nat.two_mul, ← Nat.pow_succ'])
    next hlt => exact ih hlow (Nat.not_le.mp hlt)

/-- `t` steps of `2^s` are the root of `x` rounded to the grid of that step, ties to even: the
midpoints on either side of `t` are on either side of the root, and `t` is normal. -/
structure GridRoot (x s t : Nat) : Prop where
  normal     : 2 ^ 52 ≤ t
  carry      : t ≤ 2 ^ 53
  least      : (2 ^ 52 * 2 ^ s) ^ 2 ≤ x
  above      : 4 * x ≤ ((2 * t + 1) * 2 ^ s) ^ 2
  above_even : 4 * x = ((2 * t + 1) * 2 ^ s) ^ 2 → t % 2 = 0
  below      : ((2 * t - 1) * 2 ^ s) ^ 2 ≤ 4 * x
  below_even : ((2 * t - 1) * 2 ^ s) ^ 2 = 4 * x → t % 2 = 0

/-- The shift of the root leaves its 53 leading bits. -/
theorem rootShift_bounds (hx : 2 ^ 104 ≤ x) (hs : s = Nat.log2 x / 2 - 52) :
    2 ^ 104 * 4 ^ s ≤ x ∧ x < 2 ^ 106 * 4 ^ s := by
  have hlog : 104 ≤ Nat.log2 x := (Nat.le_log2 (by omega)).mpr hx
  rw [show 4 ^ s = 2 ^ (2 * s) by rw [Nat.pow_mul], ← Nat.pow_add, ← Nat.pow_add]
  constructor
  · calc 2 ^ (104 + 2 * s) ≤ 2 ^ Nat.log2 x := Nat.pow_le_pow_right (by decide) (by omega)
      _ ≤ x := Nat.log2_self_le (by omega)
  · calc x < 2 ^ (Nat.log2 x + 1) := Nat.lt_log2_self
      _ ≤ 2 ^ (106 + 2 * s) := Nat.pow_le_pow_right (by decide) (by omega)

theorem mul_two_pow_sq (k s : Nat) : (k * 2 ^ s) ^ 2 = k * k * 4 ^ s := by
  rw [show 4 = 2 ^ 2 from rfl, ← Nat.pow_mul, Nat.mul_comm 2 s, Nat.pow_mul]
  ring

/-- The midpoint after `k` is past `k`. -/
theorem sq_lt_midpoint (k : Nat) {p : Nat} (hp : 0 < p) :
    4 * (k * k * p) < (2 * k + 1) * (2 * k + 1) * p := by
  calc 4 * (k * k * p)
      < 4 * (k * k * p) + (4 * k + 1) * p := Nat.lt_add_of_pos_right (by positivity)
    _ = (2 * k + 1) * (2 * k + 1) * p := by ring

/-- The midpoint after `k` is before its successor. -/
theorem midpoint_lt_sq (k : Nat) {p : Nat} (hp : 0 < p) :
    (2 * k + 1) * (2 * k + 1) * p < 4 * ((k + 1) * (k + 1) * p) := by
  calc (2 * k + 1) * (2 * k + 1) * p
      < (2 * k + 1) * (2 * k + 1) * p + (4 * k + 3) * p := Nat.lt_add_of_pos_right (by positivity)
    _ = 4 * ((k + 1) * (k + 1) * p) := by ring

/-- The integer root `r` of the leading bits, or its successor where the root is past the midpoint
of the two, is the root rounded to the grid. -/
theorem gridRoot_of_midpoint {r : Nat} (hlow : r * r * 4 ^ s ≤ x)
    (hhigh : x < (r + 1) * (r + 1) * 4 ^ s) (hmin : 2 ^ 52 ≤ r) (hmax : r < 2 ^ 53) :
    GridRoot x s
      (if (2 * r + 1) * (2 * r + 1) * 4 ^ s < 4 * x ∨
          ((2 * r + 1) * (2 * r + 1) * 4 ^ s = 4 * x ∧ r % 2 = 1) then r + 1 else r) := by
  have hstep : 0 < 4 ^ s := by positivity
  have hleast : (2 ^ 52 * 2 ^ s) ^ 2 ≤ x := by
    rw [mul_two_pow_sq]
    exact (Nat.mul_le_mul_right _ (Nat.mul_le_mul hmin hmin)).trans hlow
  split
  next hup =>
    have habove := sq_lt_midpoint (r + 1) hstep
    have hpred : 2 * (r + 1) - 1 = 2 * r + 1 := by omega
    exact {
      normal := by omega
      carry := by omega
      least := hleast
      above := by rw [mul_two_pow_sq]; omega
      above_even := by rw [mul_two_pow_sq]; omega
      below := by rw [mul_two_pow_sq, hpred]; omega
      below_even := by rw [mul_two_pow_sq, hpred]; omega }
  next hdown =>
    obtain ⟨q, rfl⟩ : ∃ q, r = q + 1 := ⟨r - 1, by omega⟩
    have hbelow := midpoint_lt_sq q hstep
    have hpred : 2 * (q + 1) - 1 = 2 * q + 1 := by omega
    exact {
      normal := hmin
      carry := hmax.le
      least := hleast
      above := by rw [mul_two_pow_sq]; omega
      above_even := by rw [mul_two_pow_sq]; omega
      below := by rw [mul_two_pow_sq, hpred]; omega
      below_even := by rw [mul_two_pow_sq, hpred]; omega }

/-- The rounded root is the root rounded to the grid that leaves its 53 leading bits. -/
theorem gridRoot_roundRoot (hx : 2 ^ 104 ≤ x) :
    ∃ s t, roundRoot x = s * 2 ^ 52 + t ∧ GridRoot x s t := by
  obtain ⟨hlow, hhigh⟩ := rootShift_bounds hx rfl
  refine ⟨Nat.log2 x / 2 - 52, _, rfl, ?_⟩
  generalize Nat.log2 x / 2 - 52 = s at *
  have hstep : 0 < 4 ^ s := by positivity
  have hmin : 2 ^ 104 ≤ x / 4 ^ s := (Nat.le_div_iff_mul_le hstep).mpr hlow
  have hmax : x / 4 ^ s < 2 ^ 106 := (Nat.div_lt_iff_lt_mul hstep).mpr hhigh
  rw [rootBits_eq_sqrt (Nat.zero_le _) (by simpa using hmax)]
  refine gridRoot_of_midpoint ?_ ?_ (Nat.le_sqrt.mpr (by simpa using hmin))
    (Nat.sqrt_lt.mpr (by simpa using hmax))
  · exact (Nat.le_div_iff_mul_le hstep).mp (Nat.sqrt_le _)
  · exact (Nat.div_lt_iff_lt_mul hstep).mp (Nat.lt_succ_sqrt _)

/-- `m` is the magnitude nearest to the root of `x`, ties to even, among all magnitude bits. -/
def RootNearest (m x : Nat) : Prop :=
  ∀ c,
    (magUnits m < magUnits c → 4 * x ≤ (magUnits m + magUnits c) ^ 2 ∧
      (4 * x = (magUnits m + magUnits c) ^ 2 → m % 2 = 0)) ∧
    (magUnits c < magUnits m → (magUnits m + magUnits c) ^ 2 ≤ 4 * x ∧
      ((magUnits m + magUnits c) ^ 2 = 4 * x → m % 2 = 0))

theorem GridRoot.isSignificand (h : GridRoot x s t) : IsSignificand s t :=
  ⟨h.carry, .inr h.normal⟩

/-- A magnitude above the rounded root is a grid step above it. -/
theorem GridRoot.step_le_of_lt (h : GridRoot x s t) {c : Nat} (hc : t * 2 ^ s < magUnits c) :
    (t + 1) * 2 ^ s ≤ magUnits c := by
  rcases two_pow_dvd_magUnits_or_lt s c with ⟨k, hk⟩ | hlt
  · rw [hk, Nat.mul_comm (2 ^ s)] at hc ⊢
    exact Nat.mul_le_mul_right _ (Nat.lt_of_mul_lt_mul_right hc)
  · have hn := Nat.mul_le_mul_right (2 ^ s) h.normal
    rw [Nat.pow_add] at hlt
    omega

/-- A magnitude below the rounded root is a grid step below it, or the rounded root is the least
normal significand. -/
theorem GridRoot.le_step_of_lt (h : GridRoot x s t) {c : Nat} (hc : magUnits c < t * 2 ^ s) :
    magUnits c ≤ (t - 1) * 2 ^ s ∨ t = 2 ^ 52 := by
  rcases two_pow_dvd_magUnits_or_lt s c with ⟨k, hk⟩ | hlt
  · left
    rw [hk, Nat.mul_comm (2 ^ s)] at hc ⊢
    exact Nat.mul_le_mul_right _ (Nat.le_sub_one_of_lt (Nat.lt_of_mul_lt_mul_right hc))
  · refine or_iff_not_imp_right.mpr fun hne => ?_
    have hn := Nat.mul_le_mul_right (2 ^ s) (Nat.le_sub_one_of_lt (h.normal.lt_of_ne' hne))
    rw [Nat.pow_add] at hlt
    exact hlt.le.trans hn

/-- The root rounded to the grid is nearest: every other magnitude is past the midpoint on its
side. -/
theorem GridRoot.rootNearest (h : GridRoot x s t) : RootNearest (s * 2 ^ 52 + t) x := by
  intro c
  have hparity : (s * 2 ^ 52 + t) % 2 = t % 2 := by omega
  rw [magUnits_significand h.isSignificand, hparity]
  constructor
  · intro hc
    have hmid : ((2 * t + 1) * 2 ^ s) ^ 2 ≤ (t * 2 ^ s + magUnits c) ^ 2 := by
      refine Nat.pow_le_pow_left ?_ 2
      have := h.step_le_of_lt hc
      linarith
    exact ⟨h.above.trans hmid, fun heq => h.above_even (h.above.antisymm (heq ▸ hmid))⟩
  · intro hc
    rcases h.le_step_of_lt hc with hle | ht
    · have hmid : (t * 2 ^ s + magUnits c) ^ 2 ≤ ((2 * t - 1) * 2 ^ s) ^ 2 := by
        refine Nat.pow_le_pow_left ?_ 2
        rw [show 2 * t - 1 = t + (t - 1) by have := h.normal; omega, Nat.add_mul]
        omega
      exact ⟨hmid.trans h.below, fun heq => h.below_even (h.below.antisymm (heq ▸ hmid))⟩
    · have hlt : (t * 2 ^ s + magUnits c) ^ 2 < 4 * x := by
        calc (t * 2 ^ s + magUnits c) ^ 2 < (2 * (t * 2 ^ s)) ^ 2 :=
              Nat.pow_lt_pow_left (by omega) (by decide)
          _ = 4 * (2 ^ 52 * 2 ^ s) ^ 2 := by rw [ht]; ring
          _ ≤ 4 * x := Nat.mul_le_mul_left 4 h.least
      exact ⟨hlt.le, fun heq => absurd heq hlt.ne⟩

theorem rootNearest_roundRoot (hx : 2 ^ 104 ≤ x) : RootNearest (roundRoot x) x := by
  obtain ⟨s, t, hround, h⟩ := gridRoot_roundRoot hx
  rw [hround]
  exact h.rootNearest

/-- The rounded root of what is below the square of an infinity's units is finite. -/
theorem RootNearest.lt_infMag (h : RootNearest m x) (hx : 4 * x < (2 ^ 2098) ^ 2) : m < infMag := by
  by_contra! hm
  have hu := magUnits_strictMono.monotone hm
  rw [magUnits_infMag] at hu
  have hc : magUnits (infMag - 1) < magUnits m :=
    magUnits_strictMono ((Nat.sub_one_lt (by decide)).trans_le hm)
  have hle := ((h (infMag - 1)).2 hc).1
  have hsq := Nat.pow_le_pow_left (hu.trans (Nat.le_add_right _ (magUnits (infMag - 1)))) 2
  omega

theorem RootRoundsTo.of_rootNearest {r : F64} (hsign : signBit r = false) (hr : isFinite r = true)
    (h : RootNearest (magBits r) x) : RootRoundsTo r x :=
  ⟨hsign, hr, fun c _ => h (magBits c)⟩

end Sys2Proof.Machine
end

section
/-! SUPPORT. Each operation on the operands of each class, said once: finite, infinite, zero and NaN
(40_numerics.md R101 to R108). -/

namespace Sys2Proof.Machine

variable {a b : F64}

theorem unitsPerOne_pos : 0 < unitsPerOne := by unfold unitsPerOne; positivity

/-! ### Finite operands -/

theorem fadd_of_isFinite (draw : Nat) (ha : isFinite a = true) (hb : isFinite b = true) :
    fadd draw a b = if signedUnits a + signedUnits b = 0 then pack (signBit a && signBit b) 0
      else pack (decide (signedUnits a + signedUnits b < 0))
        (roundMag (signedUnits a + signedUnits b).natAbs 1) := by
  simp [fadd, isNaN_eq_false_of_isFinite, isInf_eq_false_of_isFinite, ha, hb]

theorem fmul_of_isFinite (draw : Nat) (ha : isFinite a = true) (hb : isFinite b = true) :
    fmul draw a b = pack (signBit a != signBit b) (roundMag (units a * units b) unitsPerOne) := by
  simp [fmul, isNaN_eq_false_of_isFinite, isInf_eq_false_of_isFinite, ha, hb]

theorem fdiv_of_isFinite (draw : Nat) (ha : isFinite a = true) (hb : isFinite b = true)
    (hz : isZero b = false) :
    fdiv draw a b = pack (signBit a != signBit b) (roundMag (units a * unitsPerOne) (units b)) := by
  simp [fdiv, isNaN_eq_false_of_isFinite, isInf_eq_false_of_isFinite, ha, hb, hz]

/-- An exact sum of zero is +0, or -0 for two negative operands (40_numerics.md R103). -/
theorem fadd_of_sum_eq_zero (draw : Nat) (ha : isFinite a = true) (hb : isFinite b = true)
    (h : signedUnits a + signedUnits b = 0) :
    fadd draw a b = if signBit a && signBit b then negZero else posZero := by
  rw [fadd_of_isFinite draw ha hb, if_pos h, pack_zero]

/-- Packing the rounded units of a finite value with its sign gives the value. -/
theorem pack_roundMag_units {den : Nat} (hden : 0 < den) (ha : isFinite a = true) (s : Bool) :
    pack s (roundMag (units a * den) den) = pack s (magBits a) := by
  rw [units_eq_magUnits, roundMag_magUnits _ hden (isFinite_iff.mp ha).le]

/-- A zero added to a non-zero value leaves it (40_numerics.md R103). -/
theorem fadd_of_isZero_right (draw : Nat) (ha : isFinite a = true) (hz : isZero a = false)
    (hb : isZero b = true) : fadd draw a b = a := by
  have hsum : signedUnits a + signedUnits b = signedUnits a := by
    rw [signedUnits_of_isZero hb, Int.add_zero]
  have hne : signedUnits a ≠ 0 := by
    rw [← Int.natAbs_ne_zero, natAbs_signedUnits]
    exact (units_pos hz).ne'
  rw [fadd_of_isFinite draw ha (isFinite_of_isZero hb), hsum, if_neg hne, natAbs_signedUnits,
    ← Nat.mul_one (units a), pack_roundMag_units Nat.one_pos ha]
  simp [signedUnits_neg_iff hz]

/-- A difference of a value with itself is +0 (40_numerics.md R103). -/
theorem fsub_self (draw : Nat) (ha : isFinite a = true) : fsub draw a a = posZero := by
  rw [fsub, fadd_of_sum_eq_zero draw ha (by simpa using ha) (by simp)]
  simp

/-- A product with a zero is the zero of the product of the signs (40_numerics.md R103). -/
theorem fmul_of_isZero_right (draw : Nat) (ha : isFinite a = true) (hb : isZero b = true) :
    fmul draw a b = if signBit a != signBit b then negZero else posZero := by
  rw [fmul_of_isFinite draw ha (isFinite_of_isZero hb), units_eq_zero_iff.mpr hb, Nat.mul_zero,
    show roundMag 0 unitsPerOne = 0 by decide +kernel, pack_zero]

theorem units_negOne : units negOne = unitsPerOne := by decide +kernel

/-- Negation flips the sign of what is no NaN (40_numerics.md R107). -/
theorem fneg_of_not_isNaN (draw : Nat) (h : isNaN a = false) : fneg draw a = flipSign a := by
  have hsign : (signBit negOne != signBit a) = !signBit a := by
    rw [show signBit negOne = true by decide, Bool.true_bne]
  rw [flipSign_eq_pack, fneg]
  cases hi : isInf a with
  | false =>
    have ha := isFinite_of_not_isNaN_of_not_isInf h hi
    rw [fmul_of_isFinite draw isFinite_negOne ha, hsign, units_negOne, Nat.mul_comm,
      pack_roundMag_units unitsPerOne_pos ha]
  | true =>
    rw [isInf_iff.mp hi, ← hsign]
    simp [fmul, h, hi, isNaN_eq_false_of_isFinite isFinite_negOne,
      isInf_eq_false_of_isFinite isFinite_negOne, show isZero negOne = false by decide]

/-! ### Infinite and zero operands -/

/-- A non-zero value by a zero is an infinity (40_numerics.md R103). -/
theorem fdiv_of_isZero_right (draw : Nat) (ha : isFinite a = true) (hz : isZero a = false)
    (hb : isZero b = true) :
    fdiv draw a b = if signBit a != signBit b then flipSign posInf else posInf := by
  have hf := isFinite_of_isZero hb
  rw [← pack_infMag]
  simp [fdiv, isNaN_eq_false_of_isFinite, isInf_eq_false_of_isFinite, ha, hf, hz, hb]

theorem isNaN_fdiv_of_isZero_of_isZero (draw : Nat) (ha : isZero a = true) (hb : isZero b = true) :
    isNaN (fdiv draw a b) = true := by
  have hfa := isFinite_of_isZero ha
  have hfb := isFinite_of_isZero hb
  simp [fdiv, isNaN_eq_false_of_isFinite, isInf_eq_false_of_isFinite, ha, hb, hfa, hfb]

theorem isNaN_fdiv_of_isInf_of_isInf (draw : Nat) (ha : isInf a = true) (hb : isInf b = true) :
    isNaN (fdiv draw a b) = true := by
  simp [fdiv, ha, hb, isNaN_eq_false_of_isInf]

/-- A finite value by an infinity is a zero (40_numerics.md R103). -/
theorem fdiv_of_isInf_right (draw : Nat) (ha : isFinite a = true) (hb : isInf b = true) :
    fdiv draw a b = if signBit a != signBit b then negZero else posZero := by
  rw [← pack_zero]
  simp [fdiv, ha, hb, isNaN_eq_false_of_isInf, isNaN_eq_false_of_isFinite,
    isInf_eq_false_of_isFinite]

theorem isNaN_fmul_of_isInf_of_isZero (draw : Nat) (ha : isInf a = true) (hb : isZero b = true) :
    isNaN (fmul draw a b) = true := by
  simp [fmul, ha, hb, isNaN_eq_false_of_isInf, isNaN_eq_false_of_isFinite (isFinite_of_isZero hb)]

/-- Opposite infinities have no sum (40_numerics.md R103). -/
theorem isNaN_fadd_of_isInf_of_isInf (draw : Nat) (ha : isInf a = true) (hb : isInf b = true)
    (hs : signBit a ≠ signBit b) : isNaN (fadd draw a b) = true := by
  simp [fadd, ha, hb, isNaN_eq_false_of_isInf, hs]

/-! ### The square root -/

theorem fsqrt_of_isZero (draw : Nat) (ha : isZero a = true) : fsqrt draw a = a := by
  simp [fsqrt, ha, isNaN_eq_false_of_isFinite (isFinite_of_isZero ha)]

theorem isNaN_fsqrt_of_signBit (draw : Nat) (hz : isZero a = false) (hs : signBit a = true) :
    isNaN (fsqrt draw a) = true := by
  simp [fsqrt, hz, hs]

theorem fsqrt_posInf (draw : Nat) : fsqrt draw posInf = posInf := by
  simp [fsqrt, isInf_posInf, isNaN_eq_false_of_isInf, isZero_eq_false_of_isInf, signBit_posInf]

theorem fsqrt_of_isFinite (draw : Nat) (ha : isFinite a = true) (hz : isZero a = false)
    (hs : signBit a = false) : fsqrt draw a = pack false (roundRoot (units a * unitsPerOne)) := by
  simp [fsqrt, isNaN_eq_false_of_isFinite, isInf_eq_false_of_isFinite, ha, hz, hs]

/-- The root of a finite positive value is rounded once (40_numerics.md R101). -/
theorem rootRoundsTo_fsqrt (draw : Nat) (ha : isFinite a = true) (hz : isZero a = false)
    (hs : signBit a = false) : RootRoundsTo (fsqrt draw a) (units a * unitsPerOne) := by
  have hlt : units a < 2 ^ 2098 := by
    rw [← magUnits_infMag]
    exact magUnits_strictMono (isFinite_iff.mp ha)
  have hnear : RootNearest (roundRoot (units a * unitsPerOne)) (units a * unitsPerOne) := by
    refine rootNearest_roundRoot ?_
    calc 2 ^ 104 ≤ 1 * unitsPerOne := by decide +kernel
      _ ≤ units a * unitsPerOne := Nat.mul_le_mul_right _ (units_pos hz)
  have hfin : roundRoot (units a * unitsPerOne) < infMag := by
    refine hnear.lt_infMag ?_
    calc 4 * (units a * unitsPerOne) < 4 * (2 ^ 2098 * unitsPerOne) :=
          Nat.mul_lt_mul_of_pos_left (Nat.mul_lt_mul_of_pos_right hlt unitsPerOne_pos) (by decide)
      _ ≤ (2 ^ 2098) ^ 2 := by decide +kernel
  have hbits : roundRoot (units a * unitsPerOne) < 2 ^ 63 := hfin.trans (by decide)
  have hmag := magBits_pack false _ hbits
  rw [fsqrt_of_isFinite draw ha hz hs]
  exact .of_rootNearest (signBit_pack false _ hbits) (isFinite_iff.mpr (hmag.trans_lt hfin))
    (hmag.symm ▸ hnear)

/-! ### The comparison and the conversion -/

theorem fgt_iff (ha : isNaN a = false) (hb : isNaN b = false) :
    fgt a b = true ↔ orderKey b < orderKey a := by
  simp [fgt, ha, hb]

theorem fgt_eq_false_of_isNaN (h : isNaN a = true ∨ isNaN b = true) : fgt a b = false := by
  rcases h with h | h <;> simp [fgt, h]

/-- The places in the order are ordered as the values. -/
theorem orderKey_lt_iff (a b : F64) : orderKey b < orderKey a ↔ signedUnits b < signedUnits a := by
  have hab : units a < units b ↔ magBits a < magBits b := magUnits_strictMono.lt_iff_lt
  have hba : units b < units a ↔ magBits b < magBits a := magUnits_strictMono.lt_iff_lt
  have ha : units a = 0 ↔ magBits a = 0 := magUnits_eq_zero_iff
  have hb : units b = 0 ↔ magBits b = 0 := magUnits_eq_zero_iff
  unfold orderKey signedUnits
  split <;> split <;> omega

/-- The comparison of finite operands is that of their values (40_numerics.md R108). -/
theorem fgt_iff_signedUnits (ha : isFinite a = true) (hb : isFinite b = true) :
    fgt a b = true ↔ signedUnits b < signedUnits a := by
  rw [fgt_iff (isNaN_eq_false_of_isFinite ha) (isNaN_eq_false_of_isFinite hb), orderKey_lt_iff]

/-- What is no NaN lies between the infinities. -/
theorem natAbs_orderKey_le (h : isNaN a = false) : (orderKey a).natAbs ≤ infMag := by
  simp only [isNaN, decide_eq_false_iff_not, Nat.not_lt] at h
  unfold orderKey
  split <;> simpa

theorem natAbs_orderKey_lt (h : isFinite a = true) : (orderKey a).natAbs < infMag := by
  rw [isFinite_iff] at h
  unfold orderKey
  split <;> simpa

theorem orderKey_posInf : orderKey posInf = infMag := by decide

theorem orderKey_negInf : orderKey (flipSign posInf) = -infMag := by decide

/-- A finite value is below +infinity. -/
theorem fgt_posInf_of_isFinite (hb : isFinite b = true) : fgt posInf b = true := by
  have hlt := natAbs_orderKey_lt hb
  rw [fgt_iff (by decide) (isNaN_eq_false_of_isFinite hb), orderKey_posInf]
  omega

/-- A finite value is above -infinity. -/
theorem fgt_negInf_of_isFinite (ha : isFinite a = true) : fgt a (flipSign posInf) = true := by
  have hlt := natAbs_orderKey_lt ha
  rw [fgt_iff (isNaN_eq_false_of_isFinite ha) (by decide), orderKey_negInf]
  omega

/-- Nothing is above +infinity. -/
theorem not_fgt_posInf (a : F64) : fgt a posInf = false := by
  cases ha : isNaN a with
  | true => exact fgt_eq_false_of_isNaN (.inl ha)
  | false =>
    have hle := natAbs_orderKey_le ha
    rw [← Bool.not_eq_true, fgt_iff ha (by decide), orderKey_posInf]
    omega

/-- Nothing is below -infinity. -/
theorem not_negInf_fgt (b : F64) : fgt (flipSign posInf) b = false := by
  cases hb : isNaN b with
  | true => exact fgt_eq_false_of_isNaN (.inr hb)
  | false =>
    have hle := natAbs_orderKey_le hb
    rw [← Bool.not_eq_true, fgt_iff (by decide) hb, orderKey_negInf]
    omega

/-- The conversion is exact below 2^53 (40_numerics.md R108): the integer is the magnitude of a
finite pattern. -/
theorem i2f_exact {n : Nat} (hn : n < 2 ^ 53) :
    isFinite (i2f n) = true ∧ signBit (i2f n) = false ∧ units (i2f n) = n * unitsPerOne := by
  obtain ⟨m, hm⟩ := exists_magUnits_eq 1074 hn
  have hfin : m < infMag := by
    rw [← magUnits_strictMono.lt_iff_lt, hm, magUnits_infMag]
    calc n * 2 ^ 1074 < 2 ^ 53 * 2 ^ 1074 := Nat.mul_lt_mul_of_pos_right hn (by positivity)
      _ ≤ 2 ^ 2098 := by decide +kernel
  have hround : i2f n = pack false m := by
    have hself := roundMag_magUnits m Nat.one_pos hfin.le
    rw [hm, Nat.mul_one] at hself
    rw [i2f, unitsPerOne, hself]
  have hbits : m < 2 ^ 63 := hfin.trans (by decide)
  have hmag : magBits (i2f n) = m := by rw [hround, magBits_pack false m hbits]
  refine ⟨isFinite_iff.mpr (hmag.trans_lt hfin), ?_, ?_⟩
  · rw [hround, signBit_pack false m hbits]
  · rw [units_eq_magUnits, hmag, hm, unitsPerOne]

end Sys2Proof.Machine
end

section
/-! SUPPORT. NaN operands and draws: a NaN operand gives a NaN, and beyond that no result depends
on a NaN's pattern or on the draw (40_numerics.md R105, R114). -/

namespace Sys2Proof.Machine

variable {a a' b b' : F64}

/-! ### A NaN operand gives a NaN -/

theorem isNaN_fsub_of_isNaN (draw : Nat) (a b : F64) (h : (isNaN a || isNaN b) = true) :
    isNaN (fsub draw a b) = true :=
  isNaN_fadd_of_isNaN draw a (flipSign b) (by rwa [isNaN_flipSign])

theorem isNaN_fsqrt_of_isNaN (draw : Nat) (a : F64) (h : isNaN a = true) :
    isNaN (fsqrt draw a) = true := by
  simp [fsqrt, h]

theorem isNaN_fneg_of_isNaN (draw : Nat) (a : F64) (h : isNaN a = true) :
    isNaN (fneg draw a) = true :=
  isNaN_fmul_of_isNaN draw negOne a (by rw [h, Bool.or_true])

theorem isNaN_unitSin_of_isNaN (draw : Nat) (a : F64) (h : isNaN a = true) :
    isNaN (unitSin draw a) = true := by
  simp [unitSin, h]

theorem isNaN_unitCos_of_isNaN (draw : Nat) (a : F64) (h : isNaN a = true) :
    isNaN (unitCos draw a) = true := by
  simp [unitCos, h]

theorem isNaN_unitAtan2_of_isNaN (draw : Nat) (a b : F64) (h : (isNaN a || isNaN b) = true) :
    isNaN (unitAtan2 draw a b) = true := by
  unfold unitAtan2; rw [if_pos h]; exact isNaN_nanResult ..

theorem isNaN_unitPow_of_isNaN (draw : Nat) (a b : F64) (h : (isNaN a || isNaN b) = true) :
    isNaN (unitPow draw a b) = true := by
  unfold unitPow; rw [if_pos h]; exact isNaN_nanResult ..

/-! ### Equal up to a NaN's pattern -/

theorem sameUpToNaN_iff : sameUpToNaN a b = true ↔ a = b ∨ (isNaN a = true ∧ isNaN b = true) := by
  simp [sameUpToNaN]

theorem sameUpToNaN_of_isNaN (ha : isNaN a = true) (hb : isNaN b = true) :
    sameUpToNaN a b = true :=
  sameUpToNaN_iff.mpr (.inr ⟨ha, hb⟩)

@[simp] theorem sameUpToNaN_nanResult (draw draw' : Nat) (op op' : FpOp) (a b a' b' : F64) :
    sameUpToNaN (nanResult draw op a b) (nanResult draw' op' a' b') = true :=
  sameUpToNaN_of_isNaN (isNaN_nanResult ..) (isNaN_nanResult ..)

/-- The answer of a unit depends on its operands and the draw in a NaN's pattern only. -/
@[simp] theorem sameUpToNaN_unitAnswer (draw draw' : Nat) (op op' : FpOp) (a b a' b' r : F64) :
    sameUpToNaN (unitAnswer draw op a b r) (unitAnswer draw' op' a' b' r) = true := by
  unfold unitAnswer; split <;> simp

theorem forgetNaN_congr (h : sameUpToNaN a a' = true) : forgetNaN a = forgetNaN a' := by
  obtain rfl | ⟨ha, ha'⟩ := sameUpToNaN_iff.mp h
  · rfl
  · simp [forgetNaN, ha, ha']

/-- A unary operation that gives a NaN for a NaN, and whose draw matters in a NaN's pattern only,
respects equality up to NaN. -/
theorem sameUpToNaN_congr {f : Nat → F64 → F64}
    (hnan : ∀ d a, isNaN a = true → isNaN (f d a) = true)
    (hdraw : ∀ d d' a, sameUpToNaN (f d a) (f d' a) = true) (d d' : Nat)
    (h : sameUpToNaN a a' = true) : sameUpToNaN (f d a) (f d' a') = true := by
  obtain rfl | ⟨ha, ha'⟩ := sameUpToNaN_iff.mp h
  · exact hdraw d d' a
  · exact sameUpToNaN_of_isNaN (hnan d a ha) (hnan d' a' ha')

/-- The same of a binary operation. -/
theorem sameUpToNaN_congr₂ {f : Nat → F64 → F64 → F64}
    (hnan : ∀ d a b, (isNaN a || isNaN b) = true → isNaN (f d a b) = true)
    (hdraw : ∀ d d' a b, sameUpToNaN (f d a b) (f d' a b) = true) (d d' : Nat)
    (ha : sameUpToNaN a a' = true) (hb : sameUpToNaN b b' = true) :
    sameUpToNaN (f d a b) (f d' a' b') = true := by
  obtain rfl | ⟨hna, hna'⟩ := sameUpToNaN_iff.mp ha
  · exact sameUpToNaN_congr (f := fun d b => f d a b)
      (fun d b h => hnan d a b (by rw [h, Bool.or_true])) (fun d d' b => hdraw d d' a b) d d' hb
  · exact sameUpToNaN_of_isNaN (hnan d a b (by rw [hna, Bool.true_or]))
      (hnan d' a' b' (by rw [hna', Bool.true_or]))

/-! ### The draw matters in a NaN's pattern only: both runs take the same branch -/

theorem sameUpToNaN_fadd_draw (d d' : Nat) (a b : F64) :
    sameUpToNaN (fadd d a b) (fadd d' a b) = true := by
  simp only [fadd]; split_ifs <;> simp

theorem sameUpToNaN_fsub_draw (d d' : Nat) (a b : F64) :
    sameUpToNaN (fsub d a b) (fsub d' a b) = true :=
  sameUpToNaN_fadd_draw d d' a (flipSign b)

theorem sameUpToNaN_fmul_draw (d d' : Nat) (a b : F64) :
    sameUpToNaN (fmul d a b) (fmul d' a b) = true := by
  simp only [fmul]; split_ifs <;> simp

theorem sameUpToNaN_fdiv_draw (d d' : Nat) (a b : F64) :
    sameUpToNaN (fdiv d a b) (fdiv d' a b) = true := by
  simp only [fdiv]; split_ifs <;> simp

theorem sameUpToNaN_fsqrt_draw (d d' : Nat) (a : F64) :
    sameUpToNaN (fsqrt d a) (fsqrt d' a) = true := by
  unfold fsqrt; split_ifs <;> simp

theorem sameUpToNaN_fneg_draw (d d' : Nat) (a : F64) :
    sameUpToNaN (fneg d a) (fneg d' a) = true :=
  sameUpToNaN_fmul_draw d d' negOne a

theorem sameUpToNaN_unitSin_draw (d d' : Nat) (a : F64) :
    sameUpToNaN (unitSin d a) (unitSin d' a) = true := by
  unfold unitSin; split_ifs <;> simp

theorem sameUpToNaN_unitCos_draw (d d' : Nat) (a : F64) :
    sameUpToNaN (unitCos d a) (unitCos d' a) = true := by
  unfold unitCos; split_ifs <;> simp

theorem sameUpToNaN_unitAtan2_draw (d d' : Nat) (a b : F64) :
    sameUpToNaN (unitAtan2 d a b) (unitAtan2 d' a b) = true := by
  simp only [unitAtan2]; split_ifs <;> simp

theorem sameUpToNaN_unitPow_draw (d d' : Nat) (a b : F64) :
    sameUpToNaN (unitPow d a b) (unitPow d' a b) = true := by
  simp only [unitPow]; split_ifs <;> simp

/-! ### Results do not depend on NaN patterns -/

theorem sameUpToNaN_fadd (d d' : Nat) (ha : sameUpToNaN a a' = true)
    (hb : sameUpToNaN b b' = true) : sameUpToNaN (fadd d a b) (fadd d' a' b') = true :=
  sameUpToNaN_congr₂ isNaN_fadd_of_isNaN sameUpToNaN_fadd_draw d d' ha hb

theorem sameUpToNaN_fsub (d d' : Nat) (ha : sameUpToNaN a a' = true)
    (hb : sameUpToNaN b b' = true) : sameUpToNaN (fsub d a b) (fsub d' a' b') = true :=
  sameUpToNaN_congr₂ isNaN_fsub_of_isNaN sameUpToNaN_fsub_draw d d' ha hb

theorem sameUpToNaN_fmul (d d' : Nat) (ha : sameUpToNaN a a' = true)
    (hb : sameUpToNaN b b' = true) : sameUpToNaN (fmul d a b) (fmul d' a' b') = true :=
  sameUpToNaN_congr₂ isNaN_fmul_of_isNaN sameUpToNaN_fmul_draw d d' ha hb

theorem sameUpToNaN_fdiv (d d' : Nat) (ha : sameUpToNaN a a' = true)
    (hb : sameUpToNaN b b' = true) : sameUpToNaN (fdiv d a b) (fdiv d' a' b') = true :=
  sameUpToNaN_congr₂ isNaN_fdiv_of_isNaN sameUpToNaN_fdiv_draw d d' ha hb

theorem sameUpToNaN_fsqrt (d d' : Nat) (ha : sameUpToNaN a a' = true) :
    sameUpToNaN (fsqrt d a) (fsqrt d' a') = true :=
  sameUpToNaN_congr isNaN_fsqrt_of_isNaN sameUpToNaN_fsqrt_draw d d' ha

theorem sameUpToNaN_fneg (d d' : Nat) (ha : sameUpToNaN a a' = true) :
    sameUpToNaN (fneg d a) (fneg d' a') = true :=
  sameUpToNaN_congr isNaN_fneg_of_isNaN sameUpToNaN_fneg_draw d d' ha

theorem sameUpToNaN_unitSin (d d' : Nat) (ha : sameUpToNaN a a' = true) :
    sameUpToNaN (unitSin d a) (unitSin d' a') = true :=
  sameUpToNaN_congr isNaN_unitSin_of_isNaN sameUpToNaN_unitSin_draw d d' ha

theorem sameUpToNaN_unitCos (d d' : Nat) (ha : sameUpToNaN a a' = true) :
    sameUpToNaN (unitCos d a) (unitCos d' a') = true :=
  sameUpToNaN_congr isNaN_unitCos_of_isNaN sameUpToNaN_unitCos_draw d d' ha

theorem sameUpToNaN_unitAtan2 (d d' : Nat) (ha : sameUpToNaN a a' = true)
    (hb : sameUpToNaN b b' = true) : sameUpToNaN (unitAtan2 d a b) (unitAtan2 d' a' b') = true :=
  sameUpToNaN_congr₂ isNaN_unitAtan2_of_isNaN sameUpToNaN_unitAtan2_draw d d' ha hb

theorem sameUpToNaN_unitPow (d d' : Nat) (ha : sameUpToNaN a a' = true)
    (hb : sameUpToNaN b b' = true) : sameUpToNaN (unitPow d a b) (unitPow d' a' b') = true :=
  sameUpToNaN_congr₂ isNaN_unitPow_of_isNaN sameUpToNaN_unitPow_draw d d' ha hb

/-- The bandwidth conversion forgets the patterns of its NaN operands. -/
theorem sameUpToNaN_unitBw2q (d d' : Nat) {c c' : F64} (ha : sameUpToNaN a a' = true)
    (hb : sameUpToNaN b b' = true) (hc : sameUpToNaN c c' = true) :
    sameUpToNaN (unitBw2q d a b c) (unitBw2q d' a' b' c') = true := by
  simp [unitBw2q, forgetNaN_congr ha, forgetNaN_congr hb, forgetNaN_congr hc]

theorem fgt_congr (ha : sameUpToNaN a a' = true) (hb : sameUpToNaN b b' = true) :
    fgt a b = fgt a' b' := by
  obtain rfl | ⟨hna, hna'⟩ := sameUpToNaN_iff.mp ha
  · obtain rfl | ⟨hnb, hnb'⟩ := sameUpToNaN_iff.mp hb
    · rfl
    · rw [fgt_eq_false_of_isNaN (.inr hnb), fgt_eq_false_of_isNaN (.inr hnb')]
  · rw [fgt_eq_false_of_isNaN (.inl hna), fgt_eq_false_of_isNaN (.inl hna')]

/-! ### The order of the operands -/

/-- An operation that gives a NaN for a NaN commutes up to NaN where it does on operands that are
none. -/
theorem sameUpToNaN_comm {f : F64 → F64 → F64}
    (hnan : ∀ a b, (isNaN a || isNaN b) = true → isNaN (f a b) = true)
    (hcomm : ∀ a b, isNaN a = false → isNaN b = false → sameUpToNaN (f a b) (f b a) = true)
    (a b : F64) : sameUpToNaN (f a b) (f b a) = true := by
  cases hn : isNaN a || isNaN b with
  | true => exact sameUpToNaN_of_isNaN (hnan a b hn) (hnan b a (by rwa [Bool.or_comm]))
  | false =>
    obtain ⟨hna, hnb⟩ := Bool.or_eq_false_iff.mp hn
    exact hcomm a b hna hnb

theorem sameUpToNaN_fadd_comm (d : Nat) (a b : F64) :
    sameUpToNaN (fadd d a b) (fadd d b a) = true := by
  refine sameUpToNaN_comm (isNaN_fadd_of_isNaN d) (fun a b hna hnb => ?_) a b
  cases hia : isInf a <;> cases hib : isInf b
  case false.false =>
    have ha := isFinite_of_not_isNaN_of_not_isInf hna hia
    have hb := isFinite_of_not_isNaN_of_not_isInf hnb hib
    rw [fadd_of_isFinite d ha hb, fadd_of_isFinite d hb ha, Int.add_comm, Bool.and_comm]
    exact sameUpToNaN_refl _
  case false.true | true.false => simp [fadd, hna, hnb, hia, hib]
  case true.true =>
    by_cases hs : signBit a = signBit b
    · have hab : a = b :=
        eq_of_signBit_eq_of_magBits_eq hs ((isInf_iff.mp hia).trans (isInf_iff.mp hib).symm)
      rw [hab]
      exact sameUpToNaN_refl _
    · exact sameUpToNaN_of_isNaN (isNaN_fadd_of_isInf_of_isInf d hia hib hs)
        (isNaN_fadd_of_isInf_of_isInf d hib hia (Ne.symm hs))

theorem sameUpToNaN_fmul_comm (d : Nat) (a b : F64) :
    sameUpToNaN (fmul d a b) (fmul d b a) = true := by
  refine sameUpToNaN_comm (isNaN_fmul_of_isNaN d) (fun a b hna hnb => ?_) a b
  have hsign : (signBit a != signBit b) = (signBit b != signBit a) := bne_comm
  cases hia : isInf a <;> cases hib : isInf b
  case false.false =>
    have ha := isFinite_of_not_isNaN_of_not_isInf hna hia
    have hb := isFinite_of_not_isNaN_of_not_isInf hnb hib
    rw [fmul_of_isFinite d ha hb, fmul_of_isFinite d hb ha, hsign, Nat.mul_comm]
    exact sameUpToNaN_refl _
  case false.true | true.false =>
    simp only [fmul, hna, hnb, hia, hib, hsign, Bool.or_self, Bool.false_eq_true, if_true,
      if_false]
    split <;> simp
  case true.true => simp [fmul, hna, hnb, hia, hib, hsign, isZero_eq_false_of_isInf]

end Sys2Proof.Machine
end

section
/-! SUPPORT. The stated values of the units (40_numerics.md R110 to R113). -/

namespace Sys2Proof.Machine

variable {a x y : F64}

/-! ### `SIN` and `COS` -/

theorem isNaN_unitSin_of_isInf (d : Nat) (hx : isInf x = true) : isNaN (unitSin d x) = true := by
  simp [unitSin, hx]

theorem isNaN_unitCos_of_isInf (d : Nat) (hx : isInf x = true) : isNaN (unitCos d x) = true := by
  simp [unitCos, hx]

theorem unitSin_of_isZero (d : Nat) (hx : isZero x = true) : unitSin d x = x := by
  have hf := isFinite_of_isZero hx
  simp [unitSin, hx, isNaN_eq_false_of_isFinite hf, isInf_eq_false_of_isFinite hf]

theorem unitCos_of_isZero (d : Nat) (hx : isZero x = true) : unitCos d x = one := by
  have hf := isFinite_of_isZero hx
  simp [unitCos, hx, isNaN_eq_false_of_isFinite hf, isInf_eq_false_of_isFinite hf]

/-! ### `ATAN2` -/

/-- A positive pattern with the sign of `y` is it or its negation. -/
theorem withSignOf_eq (y : F64) (ha : signBit a = false) :
    withSignOf y a = if signBit y then flipSign a else a := by
  cases hy : signBit y
  · exact (congrArg (pack · (magBits a)) (hy.trans ha.symm)).trans (pack_signBit_magBits a)
  · rw [flipSign_eq_pack, withSignOf, hy, ha]
    rfl

theorem unitAtan2_of_isZero_left (d : Nat) (hy : isZero y = true) (hx : isNaN x = false) :
    unitAtan2 d y x = withSignOf y (if signBit x then piConst else posZero) := by
  simp [unitAtan2, hy, hx, isNaN_eq_false_of_isFinite (isFinite_of_isZero hy)]

theorem unitAtan2_posZero_left (d : Nat) (hx : isNaN x = false) :
    unitAtan2 d posZero x = if signBit x then piConst else posZero :=
  (unitAtan2_of_isZero_left d isZero_posZero hx).trans (by cases signBit x <;> decide)

theorem unitAtan2_negZero_left (d : Nat) (hx : isNaN x = false) :
    unitAtan2 d negZero x = if signBit x then flipSign piConst else negZero :=
  (unitAtan2_of_isZero_left d isZero_negZero hx).trans (by cases signBit x <;> decide)

theorem unitAtan2_of_isZero_right (d : Nat) (hy : isFinite y = true) (hz : isZero y = false)
    (hx : isZero x = true) :
    unitAtan2 d y x = if signBit y then flipSign halfPi else halfPi := by
  rw [← withSignOf_eq y (by decide)]
  simp [unitAtan2, hz, hx, isNaN_eq_false_of_isFinite hy, isInf_eq_false_of_isFinite hy,
    isNaN_eq_false_of_isFinite (isFinite_of_isZero hx)]

theorem unitAtan2_posInf_right (d : Nat) (hy : isFinite y = true) (hz : isZero y = false) :
    unitAtan2 d y posInf = if signBit y then negZero else posZero := by
  rw [← flipSign_posZero, ← withSignOf_eq y (by decide)]
  simp [unitAtan2, hz, isNaN_eq_false_of_isFinite hy, isInf_eq_false_of_isFinite hy,
    isInf_posInf, isNaN_eq_false_of_isInf, isZero_eq_false_of_isInf, signBit_posInf]

theorem unitAtan2_negInf_right (d : Nat) (hy : isFinite y = true) (hz : isZero y = false) :
    unitAtan2 d y (flipSign posInf) = if signBit y then flipSign piConst else piConst := by
  rw [← withSignOf_eq y (by decide)]
  simp [unitAtan2, hz, isNaN_eq_false_of_isFinite hy, isInf_eq_false_of_isFinite hy,
    isInf_posInf, isNaN_eq_false_of_isInf, isZero_eq_false_of_isInf isInf_negInf, signBit_posInf]

theorem unitAtan2_of_isInf_left (d : Nat) (hy : isInf y = true) (hx : isFinite x = true) :
    unitAtan2 d y x = if signBit y then flipSign halfPi else halfPi := by
  rw [← withSignOf_eq y (by decide)]
  simp [unitAtan2, hy, isNaN_eq_false_of_isInf hy, isZero_eq_false_of_isInf hy,
    isNaN_eq_false_of_isFinite hx, isInf_eq_false_of_isFinite hx]

theorem unitAtan2_of_isInf_posInf (d : Nat) (hy : isInf y = true) :
    unitAtan2 d y posInf = if signBit y then flipSign quarterPi else quarterPi := by
  rw [← withSignOf_eq y (by decide)]
  simp [unitAtan2, hy, isInf_posInf, isNaN_eq_false_of_isInf, isZero_eq_false_of_isInf hy,
    signBit_posInf]

theorem unitAtan2_of_isInf_negInf (d : Nat) (hy : isInf y = true) :
    unitAtan2 d y (flipSign posInf) =
      if signBit y then flipSign threeQuarterPi else threeQuarterPi := by
  rw [← withSignOf_eq y (by decide)]
  simp [unitAtan2, hy, isInf_posInf, isNaN_eq_false_of_isInf, isZero_eq_false_of_isInf hy,
    signBit_posInf]

/-! ### `POW` -/

theorem unitPow_ten_of_isZero (d : Nat) (hy : isZero y = true) : unitPow d ten y = one := by
  simp [unitPow, hy, isNaN_ten, isNaN_eq_false_of_isFinite (isFinite_of_isZero hy)]

theorem unitPow_ten_of_isInf (d : Nat) (hy : isInf y = true) :
    unitPow d ten y = if signBit y then posZero else posInf := by
  simp [unitPow, hy, isNaN_ten, isNaN_eq_false_of_isInf hy, isZero_eq_false_of_isInf hy]

theorem unitPow_ten_of_isFinite (d : Nat) (hy : isFinite y = true) (hz : isZero y = false) :
    unitPow d ten y = powTen y := by
  simp [unitPow, hz, isNaN_ten, isNaN_eq_false_of_isFinite hy, isInf_eq_false_of_isFinite hy]

/-- The bound of the overflow lies between 308 and 309. -/
theorem signedUnits_powOverflowFrom :
    isFinite powOverflowFrom = true ∧ 308 * (unitsPerOne : Int) < signedUnits powOverflowFrom ∧
      signedUnits powOverflowFrom ≤ 309 * (unitsPerOne : Int) := by
  decide +kernel

/-- The bound of the normal numbers lies between -308 and -307. -/
theorem signedUnits_powNormalFrom :
    isFinite powNormalFrom = true ∧ -308 * (unitsPerOne : Int) < signedUnits powNormalFrom ∧
      signedUnits powNormalFrom ≤ -307 * (unitsPerOne : Int) := by
  decide +kernel

/-- The bound of the non-zero results lies between -324 and -323. -/
theorem signedUnits_powNonZeroFrom :
    isFinite powNonZeroFrom = true ∧ -324 * (unitsPerOne : Int) < signedUnits powNonZeroFrom ∧
      signedUnits powNonZeroFrom ≤ -323 * (unitsPerOne : Int) := by
  decide +kernel

theorem isPosNormal_iff :
    isPosNormal a = true ↔ signBit a = false ∧ isFinite a = true ∧ 2 ^ 52 ≤ magBits a := by
  simp [isPosNormal, and_assoc]

theorem isPosSubnormal_iff :
    isPosSubnormal a = true ↔ signBit a = false ∧ isZero a = false ∧ magBits a < 2 ^ 52 := by
  simp [isPosSubnormal, and_assoc]

/-- The classes of `POW(10.0, y)` by the value of `y` against the three bounds. -/
theorem powTen_classes (hy : isFinite y = true) :
    (signedUnits powOverflowFrom ≤ signedUnits y → powTen y = posInf) ∧
    (signedUnits powNormalFrom ≤ signedUnits y → signedUnits y < signedUnits powOverflowFrom →
      isPosNormal (powTen y) = true) ∧
    (signedUnits powNonZeroFrom ≤ signedUnits y → signedUnits y < signedUnits powNormalFrom →
      isPosSubnormal (powTen y) = true) ∧
    (signedUnits y < signedUnits powNonZeroFrom → powTen y = posZero) := by
  obtain ⟨hofin, hover, -⟩ := signedUnits_powOverflowFrom
  obtain ⟨hnfin, hnorm, hnorm'⟩ := signedUnits_powNormalFrom
  obtain ⟨hzfin, -, hnonz⟩ := signedUnits_powNonZeroFrom
  have hone := unitsPerOne_pos
  have hcases := powTen_cases y
  simp only [← Bool.not_eq_true, fgt_iff_signedUnits hofin hy, fgt_iff_signedUnits hnfin hy,
    fgt_iff_signedUnits hzfin hy, Int.not_lt] at hcases
  obtain ⟨h, hp⟩ | ⟨h, h', hp⟩ | ⟨h, h', hp⟩ | ⟨h, hp⟩ := hcases
  · refine ⟨fun _ => hp, ?_, ?_, ?_⟩ <;> omega
  · refine ⟨?_, fun _ _ => hp, ?_, ?_⟩ <;> omega
  · refine ⟨?_, ?_, fun _ _ => hp, ?_⟩ <;> omega
  · refine ⟨?_, ?_, ?_, fun _ => hp⟩ <;> omega

/-- `POW(10.0, y)` at a finite `y` is of the class of its whole exponents, 1 at the zeros too. -/
theorem unitPow_ten_classes (d : Nat) (hy : isFinite y = true) :
    (309 * (unitsPerOne : Int) ≤ signedUnits y → unitPow d ten y = posInf) ∧
    (-307 * (unitsPerOne : Int) ≤ signedUnits y → signedUnits y ≤ 308 * (unitsPerOne : Int) →
      isPosNormal (unitPow d ten y) = true) ∧
    (-323 * (unitsPerOne : Int) ≤ signedUnits y → signedUnits y ≤ -308 * (unitsPerOne : Int) →
      isPosSubnormal (unitPow d ten y) = true) ∧
    (signedUnits y ≤ -324 * (unitsPerOne : Int) → unitPow d ten y = posZero) := by
  have hone := unitsPerOne_pos
  cases hz : isZero y with
  | true =>
    rw [unitPow_ten_of_isZero d hz, signedUnits_of_isZero hz]
    have hnormal : isPosNormal one = true := by decide +kernel
    refine ⟨?_, fun _ _ => hnormal, ?_, ?_⟩ <;> omega
  | false =>
    rw [unitPow_ten_of_isFinite d hy hz]
    obtain ⟨hinf, hnormal, hsub, hzero⟩ := powTen_classes hy
    obtain ⟨-, hover, hover'⟩ := signedUnits_powOverflowFrom
    obtain ⟨-, hnorm, hnorm'⟩ := signedUnits_powNormalFrom
    obtain ⟨-, hnonz, hnonz'⟩ := signedUnits_powNonZeroFrom
    exact ⟨fun h => hinf (hover'.trans h), fun h h' => hnormal (hnorm'.trans h) (h'.trans_lt hover),
      fun h h' => hsub (hnonz'.trans h) (h'.trans_lt hnorm), fun h => hzero (h.trans_lt hnonz)⟩

end Sys2Proof.Machine
end

section
/-! SUPPORT. The integer laws of 40_numerics.md R121 and R122. -/

namespace Sys2Proof.Machine

/-- Bit `k` of a reversal is bit `n - 1 - k`: the lowest bit goes to the top, and the rest is
reversed below it. -/
theorem testBit_bitrev (i : Nat) {n k : Nat} (hk : k < n) :
    (bitrev i n).testBit k = i.testBit (n - 1 - k) := by
  induction n generalizing i k with
  | zero => omega
  | succ n ih =>
    rw [bitrev, Nat.mul_comm, Nat.testBit_two_pow_mul_add _ (bitrev_lt (i / 2) n)]
    split
    next hlt =>
      rw [ih (i / 2) hlt, Nat.testBit_div_two]
      congr 1
      omega
    next hge =>
      obtain rfl : k = n := by omega
      simp [Nat.testBit_zero]

/-- Reversing twice gives the number back. -/
theorem bitrev_bitrev {i n : Nat} (hi : i < 2 ^ n) : bitrev (bitrev i n) n = i := by
  refine Nat.eq_of_testBit_eq fun k => ?_
  rcases Nat.lt_or_ge k n with hk | hk
  · rw [testBit_bitrev _ hk, testBit_bitrev _ (by omega)]
    congr 1
    omega
  · have hpow : 2 ^ n ≤ 2 ^ k := Nat.pow_le_pow_right (by decide) hk
    rw [Nat.testBit_lt_two_pow ((bitrev_lt _ n).trans_le hpow),
      Nat.testBit_lt_two_pow (hi.trans_le hpow)]

theorem popcount_eq_zero_iff {k n : Nat} (hn : n < 2 ^ k) : popcount k n = 0 ↔ n = 0 := by
  induction k generalizing n with
  | zero => simp [popcount]; omega
  | succ k ih =>
    rw [popcount, Nat.add_eq_zero_iff, ih (by omega)]
    omega

/-- Exactly one of `k` bits is set in the powers of two below `2^k`. -/
theorem popcount_eq_one_iff {k n : Nat} (hn : n < 2 ^ k) :
    popcount k n = 1 ↔ ∃ j, j < k ∧ n = 2 ^ j := by
  induction k generalizing n with
  | zero => simp [popcount]
  | succ k ih =>
    have hhalf : n / 2 < 2 ^ k := by omega
    rw [popcount]
    rcases Nat.mod_two_eq_zero_or_one n with hmod | hmod
    · rw [hmod, Nat.zero_add, ih hhalf]
      constructor
      · rintro ⟨j, hj, h⟩
        exact ⟨j + 1, by omega, by rw [Nat.pow_succ]; omega⟩
      · rintro ⟨j, hj, rfl⟩
        cases j with
        | zero => omega
        | succ j => exact ⟨j, by omega, by rw [Nat.pow_succ]; omega⟩
    · rw [hmod, Nat.add_eq_left, popcount_eq_zero_iff hhalf]
      constructor
      · intro h
        exact ⟨0, by omega, by omega⟩
      · rintro ⟨j, hj, rfl⟩
        cases j with
        | zero => rfl
        | succ j => omega

end Sys2Proof.Machine
end

section
/-! SUPPORT. The statements about the arithmetic, the units and the integer laws (40_numerics.md).
-/

namespace Sys2Proof.Machine

/-- Settles O7: a sum that is not zero is packed from its rounded magnitude. -/
theorem addRoundsTheExactSumOnce : Obligations.AddRoundsTheExactSumOnce := by
  unfold Obligations.AddRoundsTheExactSumOnce
  refine fun draw a b ha hb => ⟨fun hne => ?_, fadd_of_sum_eq_zero draw ha hb, rfl⟩
  rw [fadd_of_isFinite draw ha hb, if_neg hne]
  exact roundsTo_pack_roundMag _ _ Nat.one_pos

/-- Settles O8: the product is packed from its rounded magnitude. -/
theorem mulRoundsTheExactProductOnce : Obligations.MulRoundsTheExactProductOnce := by
  unfold Obligations.MulRoundsTheExactProductOnce
  intro draw a b ha hb
  rw [fmul_of_isFinite draw ha hb]
  exact roundsTo_pack_roundMag _ _ unitsPerOne_pos

/-- Settles O9: the quotient is packed from its rounded magnitude, the divisor being no zero. -/
theorem divRoundsTheExactQuotientOnce : Obligations.DivRoundsTheExactQuotientOnce := by
  unfold Obligations.DivRoundsTheExactQuotientOnce
  intro draw a b ha hb hz
  rw [fdiv_of_isFinite draw ha hb hz]
  exact roundsTo_pack_roundMag _ _ (units_pos hz)

/-- Settles O10: the root found bit by bit is on the nearer side of every midpoint. -/
theorem sqrtRoundsTheExactRootOnce : Obligations.SqrtRoundsTheExactRootOnce :=
  fun draw _ ha hz hs => rootRoundsTo_fsqrt draw ha hz hs

/-- Settles O11: by the classes of the two operands. -/
theorem addAndMulCommuteUpToNaN : Obligations.AddAndMulCommuteUpToNaN :=
  fun draw a b => ⟨sameUpToNaN_fadd_comm draw a b, sameUpToNaN_fmul_comm draw a b⟩

/-- Settles O12: each result is that of the operation on operands of the two classes. -/
theorem specialOperandsGiveTheListedResults : Obligations.SpecialOperandsGiveTheListedResults := by
  unfold Obligations.SpecialOperandsGiveTheListedResults
  intro d x z z' inf inf' hx hxz hz hz' hinf hinf'
  have hp := isFinite_of_isZero isZero_posZero
  have hn := isFinite_of_isZero isZero_negZero
  exact ⟨fdiv_of_isZero_right d hx hxz hz, isNaN_fdiv_of_isZero_of_isZero d hz hz',
    isNaN_fdiv_of_isInf_of_isInf d hinf hinf', fdiv_of_isInf_right d hx hinf,
    isNaN_fmul_of_isInf_of_isZero d hinf hz, fmul_of_isZero_right d hx hz,
    isNaN_fadd_of_isInf_of_isInf d isInf_posInf isInf_negInf (by decide), fsub_self d hx,
    fadd_of_sum_eq_zero d hp hn (by decide), fadd_of_sum_eq_zero d hn hn (by decide),
    fadd_of_sum_eq_zero d hp hp (by decide), fsub_self d hp,
    fadd_of_sum_eq_zero d hn hn (by decide), fadd_of_sum_eq_zero d hp hp (by decide),
    fsub_self d hn, fadd_of_isZero_right d hx hxz hz, fsqrt_of_isZero d isZero_posZero,
    fsqrt_of_isZero d isZero_negZero, isNaN_fsqrt_of_signBit d hxz,
    isNaN_fsqrt_of_signBit d (by decide) (by decide), fsqrt_posInf d⟩

/-- Settles O13: each operation asks for a NaN operand first. -/
theorem naNOperandsGiveNaN : Obligations.NaNOperandsGiveNaN := by
  unfold Obligations.NaNOperandsGiveNaN
  intro d a b ha
  have hab : (isNaN a || isNaN b) = true := by rw [ha, Bool.true_or]
  have hba : (isNaN b || isNaN a) = true := by rw [ha, Bool.or_true]
  exact ⟨isNaN_fadd_of_isNaN d a b hab, isNaN_fadd_of_isNaN d b a hba,
    isNaN_fsub_of_isNaN d a b hab, isNaN_fsub_of_isNaN d b a hba,
    isNaN_fmul_of_isNaN d a b hab, isNaN_fmul_of_isNaN d b a hba,
    isNaN_fdiv_of_isNaN d a b hab, isNaN_fdiv_of_isNaN d b a hba,
    isNaN_fsqrt_of_isNaN d a ha, isNaN_fneg_of_isNaN d a ha,
    isNaN_unitSin_of_isNaN d a ha, isNaN_unitCos_of_isNaN d a ha,
    isNaN_unitAtan2_of_isNaN d a b hab, isNaN_unitAtan2_of_isNaN d b a hba,
    isNaN_unitPow_of_isNaN d a b hab, isNaN_unitPow_of_isNaN d b a hba⟩

/-- Settles O14: operands equal up to NaN are equal, and both runs take the same branch, or both are
NaNs, and both results are. -/
theorem noResultDependsOnANaNPattern : Obligations.NoResultDependsOnANaNPattern := by
  unfold Obligations.NoResultDependsOnANaNPattern
  exact fun d d' a a' b b' c c' ha hb hc =>
    ⟨sameUpToNaN_fadd d d' ha hb, sameUpToNaN_fsub d d' ha hb, sameUpToNaN_fmul d d' ha hb,
      sameUpToNaN_fdiv d d' ha hb, sameUpToNaN_fsqrt d d' ha, sameUpToNaN_fneg d d' ha,
      sameUpToNaN_unitSin d d' ha, sameUpToNaN_unitCos d d' ha, sameUpToNaN_unitAtan2 d d' ha hb,
      sameUpToNaN_unitPow d d' ha hb, sameUpToNaN_unitBw2q d d' ha hb hc, fgt_congr ha hb⟩

/-- Settles O15: a product with -1.0 is exact, so it is the operand with its sign flipped. -/
theorem negationFlipsTheSign : Obligations.NegationFlipsTheSign :=
  fun d a => ⟨rfl, fneg_of_not_isNaN d, isNaN_fneg_of_isNaN d a⟩

/-- Settles O16: the patterns without their signs are ordered as the magnitudes, and an integer
below 2^53 is a magnitude of the format. -/
theorem comparisonAndConversionAreExact : Obligations.ComparisonAndConversionAreExact := by
  unfold Obligations.ComparisonAndConversionAreExact
  refine ⟨fun a b => ⟨fgt_eq_false_of_isNaN, fgt_iff_signedUnits, fun ha hb => ?_,
    fun hb => ⟨fgt_posInf_of_isFinite hb, fgt_negInf_of_isFinite hb⟩, by decide,
    not_fgt_posInf a, not_negInf_fgt b⟩, fun n hn => i2f_exact hn⟩
  have hlt := fgt_iff_signedUnits (isFinite_of_isZero ha) (isFinite_of_isZero hb)
  rw [signedUnits_of_isZero ha, signedUnits_of_isZero hb] at hlt
  simpa using hlt

/-- Settles O17: the stated values are branches of the units, and the classes of `POW(10.0, y)`
are cut at bounds that lie between the whole exponents. -/
theorem unitsHaveTheStatedValues : Obligations.UnitsHaveTheStatedValues := by
  unfold Obligations.UnitsHaveTheStatedValues
  refine ⟨fun d y x inf hinf hy hyz hx hxz => ?_, fun d y hy => ?_⟩
  · have hxn := isNaN_eq_false_of_isFinite hx
    have hfp := isFinite_of_isZero isZero_posZero
    have hfn := isFinite_of_isZero isZero_negZero
    have hp := isNaN_eq_false_of_isFinite hfp
    have hn := isNaN_eq_false_of_isFinite hfn
    have hip := isNaN_eq_false_of_isInf isInf_posInf
    have hin := isNaN_eq_false_of_isInf isInf_negInf
    exact ⟨isNaN_unitSin_of_isInf d hinf, unitSin_of_isZero d isZero_posZero,
      unitSin_of_isZero d isZero_negZero, isNaN_unitCos_of_isInf d hinf,
      unitCos_of_isZero d isZero_posZero, unitCos_of_isZero d isZero_negZero,
      unitAtan2_posZero_left d hp, unitAtan2_negZero_left d hp,
      unitAtan2_posZero_left d hn, unitAtan2_negZero_left d hn,
      unitAtan2_posZero_left d hxn, unitAtan2_negZero_left d hxn,
      unitAtan2_of_isZero_right d hy hyz isZero_posZero,
      unitAtan2_of_isZero_right d hy hyz isZero_negZero,
      unitAtan2_posInf_right d hy hyz, unitAtan2_negInf_right d hy hyz,
      unitAtan2_of_isInf_left d hinf hx,
      unitAtan2_of_isInf_posInf d hinf, unitAtan2_of_isInf_negInf d hinf,
      unitAtan2_of_isInf_left d hinf hfp,
      unitAtan2_of_isInf_left d hinf hfn,
      unitAtan2_posZero_left d hip, unitAtan2_negZero_left d hip,
      unitAtan2_posZero_left d hin, unitAtan2_negZero_left d hin,
      unitPow_ten_of_isZero d isZero_posZero, unitPow_ten_of_isZero d isZero_negZero,
      unitPow_ten_of_isInf d isInf_posInf, unitPow_ten_of_isInf d isInf_negInf⟩
  · obtain ⟨hover, hnormal, hsub, hzero⟩ := unitPow_ten_classes d hy
    exact ⟨hover, fun h h' => isPosNormal_iff.mp (hnormal h h'),
      fun h h' => isPosSubnormal_iff.mp (hsub h h'), hzero⟩

/-- Settles O18: bit `k` of the reversal is bit `n - 1 - k`, so reversing twice is the identity. -/
theorem bitReversalReversesAndPermutes : Obligations.BitReversalReversesAndPermutes := by
  unfold Obligations.BitReversalReversesAndPermutes
  exact ⟨fun _ => rfl, fun n i hi => ⟨bitrev_lt i n, fun _ => testBit_bitrev i, bitrev_bitrev hi,
    fun j hj => ⟨bitrev j n, bitrev_lt j n, bitrev_bitrev hj⟩⟩⟩

/-- Settles O19: one bit of 24 is set exactly in the powers of two. -/
theorem powerOfTwoTestIsExact : Obligations.PowerOfTwoTestIsExact := by
  unfold Obligations.PowerOfTwoTestIsExact
  intro n hn
  refine ⟨by rw [isPow2, beq_iff_eq, popcount_eq_one_iff hn], ?_⟩
  rintro k rfl
  exact Nat.log2_two_pow

end Sys2Proof.Machine
end

section
/-! SUPPORT. The bit-reversal table by doubling and the twiddle-factor ROM (41_fft.md R131 to
R133). -/

namespace Sys2Proof.Machine

theorem isPow2_two_pow {k : Nat} (hk : k < 24) : isPow2 (2 ^ k) = true := by
  rw [isPow2, beq_iff_eq, popcount_eq_one_iff (Nat.pow_lt_pow_right (by decide) hk)]
  exact ⟨k, hk, rfl⟩

theorem log2_two_pow (k : Nat) : log2 (2 ^ k) = k := Nat.log2_two_pow

theorem State.len_lt (s : State) : s.len < 2 ^ 24 := s.fft.n.isLt

theorem revTable_of_isPow2 {n : Nat} (h : isPow2 n = true) :
    revTable n = (List.range n).map fun i => bitrev i (log2 n) := by rw [revTable, if_pos h]

theorem bitrev_zero_left (k : Nat) : bitrev 0 k = 0 := by
  induction k with
  | zero => rfl
  | succ k ih => simp [bitrev, ih]

/-- Setting bit `j` above an index sets bit `k - 1 - j` of its reversal: the "entry plus `bit`" of
41_fft.md R132. -/
theorem bitrev_add_two_pow {i j k : Nat} (hi : i < 2 ^ j) (hj : j < k) :
    bitrev (2 ^ j + i) k = bitrev i k + 2 ^ (k - 1 - j) := by
  induction k generalizing i j with
  | zero => omega
  | succ k ih =>
    cases j with
    | zero =>
      obtain rfl : i = 0 := by omega
      simp [bitrev, bitrev_zero_left]
    | succ j =>
      have hmod : (2 ^ (j + 1) + i) % 2 = i % 2 := by omega
      have hdiv : (2 ^ (j + 1) + i) / 2 = 2 ^ j + i / 2 := by omega
      have hbit : k + 1 - 1 - (j + 1) = k - 1 - j := by omega
      rw [bitrev, bitrev, hmod, hdiv, ih (by omega) (by omega), hbit, Nat.add_assoc]

/-- After `j` doublings the first `2^j` reversals are covered (41_fft.md R132). -/
theorem revByDoubling_eq_map_bitrev {j k : Nat} (hj : j ≤ k) :
    revByDoubling (2 ^ k) j = (List.range (2 ^ j)).map fun i => bitrev i k := by
  induction j with
  | zero => simp [revByDoubling, bitrev_zero_left]
  | succ j ih =>
    have hbit : 2 ^ k / (2 * 2 ^ j) = 2 ^ (k - 1 - j) := by
      rw [← Nat.pow_succ', Nat.pow_div hj (by decide)]
      congr 1
      omega
    rw [revByDoubling, ih (by omega), revDouble, List.length_map, List.length_range, hbit,
      Nat.pow_succ, Nat.mul_two, List.range_add, List.map_append, List.map_map, List.map_map]
    congr 1
    refine List.map_congr_left fun i hi => ?_
    exact (bitrev_add_two_pow (List.mem_range.mp hi) hj).symm

/-! ### The ROM -/

theorem isZero_i2f_zero : isZero (i2f 0) = true := by
  rw [← units_eq_zero_iff, (i2f_exact (by decide)).2.2, Nat.zero_mul]

/-- The angle of ROM entry 0 is an infinity, a quotient by zero (41_fft.md R133). -/
theorem isInf_romAngle_zero : isInf (romAngle 0) = true := by
  have hpi : isFinite (flipSign piConst) = true := by decide
  rw [romAngle, fneg_of_not_isNaN _ (by decide),
    fdiv_of_isZero_right _ hpi (by decide) isZero_i2f_zero]
  split
  · exact isInf_negInf
  · exact isInf_posInf

theorem sinTable_getElem? {n i : Nat} (hi : i < n) : (sinTable n)[i]? = some (romSin i) := by
  simp [sinTable, hi]

theorem cosTable_getElem? {n i : Nat} (hi : i < n) : (cosTable n)[i]? = some (romCos i) := by
  simp [cosTable, hi]

theorem isNaN_romSin_zero : isNaN (romSin 0) = true :=
  isNaN_unitSin_of_isInf _ isInf_romAngle_zero

theorem isNaN_romCos_zero : isNaN (romCos 0) = true :=
  isNaN_unitCos_of_isInf _ isInf_romAngle_zero

/-! ### The bit-reversed load -/

theorem elem_eq_of_getElem? {xs : List F64} {i : Nat} {x : F64} (h : xs[i]? = some x) :
    elem xs i = x := by simp [elem, h]

theorem getElem?_eq_some_elem {xs : List F64} {i : Nat} (h : i < xs.length) :
    xs[i]? = some (elem xs i) := by simp [elem, h]

/-- The bit-reversed load of a power-of-two length takes each element from the reversal of its
index (41_fft.md R142, R146). -/
theorem bitReversed_revTable_getElem? {n i : Nat} {xs : List F64} (h : isPow2 n = true)
    (hxs : xs.length = n) (hi : i < n) :
    (bitReversed (revTable n) xs)[i]? = xs[bitrev i (log2 n)]? := by
  have hlt : bitrev i (log2 n) < xs.length := by
    rw [hxs]
    exact (bitrev_lt i _).trans_le (pow_log2_le n h)
  rw [getElem?_eq_some_elem hlt]
  simp [bitReversed, revTable_of_isPow2 h, hi]

theorem bitReversed_revTable_length {n : Nat} (h : isPow2 n = true) (xs : List F64) :
    (bitReversed (revTable n) xs).length = n := by
  rw [bitReversed, List.length_map, revTable_length, revLen, if_pos h]

end Sys2Proof.Machine
end

section
/-! SUPPORT. What the network does to each element: a butterfly combines one pair, a group's walk the
pairs of one residue, a stage all pairs with their running phases (41_fft.md R135 to R139). -/

namespace Sys2Proof.Machine

variable {d n h i j k g : Nat} {p s c : Cplx} {w v : Wave}

/-! ### One element -/

/-- Both arrays have at least `n` elements. -/
def Wave.Covers (w : Wave) (n : Nat) : Prop := n ≤ w.re.length ∧ n ≤ w.im.length

theorem Wave.Covers.mono (hw : w.Covers n) (hk : k ≤ n) : w.Covers k :=
  ⟨hk.trans hw.1, hk.trans hw.2⟩

theorem Wave.at_put_same (hi : w.Covers (i + 1)) : (w.put i c).at i = c := by
  obtain ⟨hre, him⟩ := hi
  simp [Wave.at, Wave.put, elem, List.getElem?_set_self hre, List.getElem?_set_self him]

theorem Wave.at_put_of_ne (hij : i ≠ j) : (w.put i c).at j = w.at j := by
  simp [Wave.at, Wave.put, elem, List.getElem?_set_ne hij]

theorem Wave.at_eq {re im : F64} (hre : w.re[i]? = some re) (him : w.im[i]? = some im) :
    w.at i = { re := re, im := im } := by
  rw [Wave.at, elem_eq_of_getElem? hre, elem_eq_of_getElem? him]

theorem Wave.getElem?_eq_some_at (hi : w.Covers (i + 1)) :
    w.re[i]? = some (w.at i).re ∧ w.im[i]? = some (w.at i).im :=
  ⟨getElem?_eq_some_elem hi.1, getElem?_eq_some_elem hi.2⟩

theorem Wave.put_covers (hw : w.Covers n) : (w.put i c).Covers n := by
  simpa [Wave.Covers] using hw

theorem butterfly_covers (hw : w.Covers n) : (butterfly d h p i w).Covers n := by
  simpa [Wave.Covers] using hw

theorem groupWalk_covers (hw : w.Covers n) : (groupWalk d h p k i w).Covers n := by
  simpa [Wave.Covers] using hw

/-! ### One butterfly -/

/-- In `v` the pair `i`, `i + h` is the butterfly of that pair of `w` with the phase `p`
(41_fft.md R137). -/
def Combines (d h : Nat) (p : Cplx) (i : Nat) (w v : Wave) : Prop :=
  v.at i = cadd d (w.at i) (cmul d p (w.at (i + h))) ∧
    v.at (i + h) = csub d (w.at i) (cmul d p (w.at (i + h)))

theorem butterfly_at_of_ne (hi : j ≠ i) (ho : j ≠ i + h) :
    (butterfly d h p i w).at j = w.at j := by
  rw [butterfly, Wave.at_put_of_ne hi.symm, Wave.at_put_of_ne ho.symm]

theorem butterfly_combines (hh : 0 < h) (hw : w.Covers (i + h + 1)) :
    Combines d h p i w (butterfly d h p i w) := by
  have hwi : w.Covers (i + 1) := hw.mono (by omega)
  refine ⟨?_, ?_⟩
  · rw [butterfly, Wave.at_put_same (Wave.put_covers hwi)]
  · rw [butterfly, Wave.at_put_of_ne (by omega), Wave.at_put_same hw]

/-- A pair combined from `u` is combined from `w` where it is the same in both. -/
theorem Combines.of_at_eq {u : Wave} (hc : Combines d h p i u v) (hi : u.at i = w.at i)
    (ho : u.at (i + h) = w.at (i + h)) : Combines d h p i w v := by
  rwa [Combines, ← hi, ← ho]

/-- A combined pair that is left alone stays combined. -/
theorem Combines.of_eq_at {u : Wave} (hc : Combines d h p i w u) (hi : v.at i = u.at i)
    (ho : v.at (i + h) = u.at (i + h)) : Combines d h p i w v := by
  rwa [Combines, hi, ho]

theorem butterfly_getElem?_of_ne (hi : j ≠ i) (ho : j ≠ i + h) :
    (butterfly d h p i w).re[j]? = w.re[j]? ∧ (butterfly d h p i w).im[j]? = w.im[j]? := by
  simp [butterfly, Wave.put, List.getElem?_set_ne hi.symm, List.getElem?_set_ne ho.symm]

/-- A combined pair written out by component (41_fft.md R137). -/
theorem Combines.getElem? {ri ii ro io : F64} (hc : Combines d h p i w v)
    (hv : v.Covers (i + h + 1)) (hri : w.re[i]? = some ri) (hii : w.im[i]? = some ii)
    (hro : w.re[i + h]? = some ro) (hio : w.im[i + h]? = some io) :
    let tr := fsub d (fmul d p.re ro) (fmul d p.im io)
    let ti := fadd d (fmul d p.re io) (fmul d p.im ro)
    v.re[i + h]? = some (fsub d ri tr) ∧ v.im[i + h]? = some (fsub d ii ti) ∧
      v.re[i]? = some (fadd d ri tr) ∧ v.im[i]? = some (fadd d ii ti) := by
  obtain ⟨hi, ho⟩ := hc
  obtain ⟨hvi, hvi'⟩ := Wave.getElem?_eq_some_at (hv.mono (by omega) : v.Covers (i + 1))
  obtain ⟨hvo, hvo'⟩ := Wave.getElem?_eq_some_at hv
  rw [Wave.at_eq hri hii, Wave.at_eq hro hio] at hi ho
  rw [ho] at hvo hvo'
  rw [hi] at hvi hvi'
  exact ⟨hvo, hvo', hvi, hvi'⟩

/-! ### The walk of a group -/

/-- A walk of `k` butterflies from `i` leaves every element of no pair of its own. -/
theorem groupWalk_at_of_ne
    (hj : ∀ m, m < k → j ≠ i + 2 * h * m ∧ j ≠ i + 2 * h * m + h) :
    (groupWalk d h p k i w).at j = w.at j := by
  induction k generalizing i w with
  | zero => rfl
  | succ k ih =>
    obtain ⟨hi, ho⟩ : j ≠ i ∧ j ≠ i + h := hj 0 k.succ_pos
    rw [groupWalk, ih, butterfly_at_of_ne hi ho]
    intro m hm
    have hnext := hj (m + 1) (Nat.succ_lt_succ hm)
    rwa [Nat.mul_succ, Nat.add_comm (2 * h * m), ← Nat.add_assoc] at hnext

/-- The walk of the group `g` leaves the elements of the other residues. -/
theorem groupWalk_at_of_mod_ne (hg : g < h) (hi : j % (2 * h) ≠ g)
    (ho : j % (2 * h) ≠ g + h) : (groupWalk d h p k g w).at j = w.at j := by
  refine groupWalk_at_of_ne fun m _ => ⟨?_, ?_⟩ <;> rintro rfl
  · rw [Nat.add_mul_mod_self_left, Nat.mod_eq_of_lt (by omega)] at hi
    exact hi rfl
  · rw [Nat.add_right_comm, Nat.add_mul_mod_self_left, Nat.mod_eq_of_lt (by omega)] at ho
    exact ho rfl

/-- A walk of `k` butterflies from `i` combines its `k` pairs: those before and after a pair leave
it alone. -/
theorem groupWalk_combines {m : Nat} (hh : 0 < h) (hm : m < k)
    (hw : w.Covers (i + 2 * h * m + h + 1)) :
    Combines d h p (i + 2 * h * m) w (groupWalk d h p k i w) := by
  induction k generalizing i w m with
  | zero => omega
  | succ k ih =>
    cases m with
    | zero =>
      rw [groupWalk, Nat.mul_zero, Nat.add_zero] at *
      refine (butterfly_combines hh hw).of_eq_at ?_ ?_ <;>
        exact groupWalk_at_of_ne fun m _ => by omega
    | succ m =>
      have hstep : i + 2 * h * (m + 1) = i + 2 * h + 2 * h * m := by ring
      rw [hstep] at hw ⊢
      refine (ih (by omega) (butterfly_covers hw)).of_at_eq ?_ ?_ <;>
        exact butterfly_at_of_ne (by omega) (by omega)

/-! ### The groups of a stage -/

/-- The running phase of group `g` (41_fft.md R136, R138). -/
def groupPhase (d : Nat) (s : Cplx) (g : Nat) : Cplx :=
  { re := (runningPhase d s.re s.im g).1, im := (runningPhase d s.re s.im g).2 }

theorem advance_groupPhase : advance d (groupPhase d s g) s = groupPhase d s (g + 1) := rfl

/-- Groups from `g` on leave the elements of the groups before them. -/
theorem stageGroups_at_of_mod_lt (hk : g + k ≤ h) (hj : j % (2 * h) % h < g) :
    (stageGroups d n h s k g p w).at j = w.at j := by
  induction k generalizing g p w with
  | zero => rfl
  | succ k ih =>
    rw [stageGroups, ih (by omega) (by omega), groupWalk_at_of_mod_ne (by omega)]
    · rintro hr
      rw [hr, Nat.mod_eq_of_lt (by omega)] at hj
      omega
    · rintro hr
      rw [hr, Nat.add_mod_right, Nat.mod_eq_of_lt (by omega)] at hj
      omega

/-- The other element of a pair is in the upper half of its block of `2h`. -/
theorem add_half_mod (hi : i % (2 * h) < h) : (i + h) % (2 * h) = i % (2 * h) + h := by
  have hh : h % (2 * h) = h := Nat.mod_eq_of_lt (by omega)
  rw [Nat.add_mod_of_add_mod_lt (by omega), hh]

/-- Groups `g` to `g + k - 1` combine every pair `i`, `i + h` with `i mod 2h` among them, with the
phase of that group: the groups before and after it leave the pair alone. -/
theorem stageGroups_combines (hdvd : 2 * h ∣ n) (hk : g + k ≤ h) (hlow : g ≤ i % (2 * h))
    (hhigh : i % (2 * h) < g + k) (hi : i + h < n) (hw : w.Covers n) :
    Combines d h (groupPhase d s (i % (2 * h))) i w
      (stageGroups d n h s k g (groupPhase d s g) w) := by
  induction k generalizing g w with
  | zero => omega
  | succ k ih =>
    rw [stageGroups, advance_groupPhase]
    rcases hlow.eq_or_lt with rfl | hlt
    · have hdiv : i / (2 * h) < n / (2 * h) := Nat.div_lt_div_of_lt_of_dvd hdvd (by omega)
      have hwalk : Combines d h (groupPhase d s (i % (2 * h))) i w
          (groupWalk d h (groupPhase d s (i % (2 * h))) (n / (2 * h)) (i % (2 * h)) w) := by
        have hcomb := groupWalk_combines (d := d) (p := groupPhase d s (i % (2 * h))) (w := w)
          (i := i % (2 * h)) (h := h) (by omega) hdiv
        rw [Nat.mod_add_div] at hcomb
        exact hcomb (hw.mono hi)
      refine hwalk.of_eq_at ?_ ?_ <;> refine stageGroups_at_of_mod_lt (by omega) ?_
      · rw [Nat.mod_eq_of_lt (by omega : i % (2 * h) < h)]
        omega
      · rw [add_half_mod (by omega), Nat.add_mod_right, Nat.mod_eq_of_lt (by omega)]
        omega
    · have hhalf := add_half_mod (i := i) (h := h) (by omega)
      refine (ih (by omega) hlt (by omega) (groupWalk_covers hw)).of_at_eq ?_ ?_ <;>
        exact groupWalk_at_of_mod_ne (by omega) (by omega) (by omega)

/-- A stage of half-size `h` combines every pair (41_fft.md R135, R136). -/
theorem stage_combines {twcos twsin : List F64} (hdvd : 2 * h ∣ n) (hmod : i % (2 * h) < h)
    (hi : i + h < n) (hw : w.Covers n) :
    Combines d h (groupPhase d { re := elem twcos h, im := elem twsin h } (i % (2 * h))) i w
      (stage d n twcos twsin h w) :=
  stageGroups_combines hdvd (Nat.zero_add h).le (Nat.zero_le _) (by omega) hi hw

/-! ### The stages of the network -/

variable {twcos twsin : List F64}

theorem stages_succ : stages d n twcos twsin (k + 1) h w =
    stage d n twcos twsin (2 ^ k * h) (stages d n twcos twsin k h w) := by
  induction k generalizing h w with
  | zero => rw [Nat.pow_zero, Nat.one_mul]; rfl
  | succ k ih => rw [stages, ih, stages, Nat.pow_succ, Nat.mul_assoc]

theorem butterflies_two_pow :
    butterflies d (2 ^ k) twcos twsin w = stages d (2 ^ k) twcos twsin k 1 w := by
  rw [butterflies, log2_two_pow]

/-! ### Elements past the length -/

/-- The arrays with elements appended. -/
def Wave.append (w past : Wave) : Wave := { re := w.re ++ past.re, im := w.im ++ past.im }

variable {past : Wave}

theorem Wave.at_append (hi : w.Covers (i + 1)) : (w.append past).at i = w.at i := by
  obtain ⟨hre, him⟩ := hi
  simp [Wave.at, Wave.append, elem, List.getElem?_append_left hre, List.getElem?_append_left him]

theorem Wave.put_append (hi : w.Covers (i + 1)) :
    (w.append past).put i c = (w.put i c).append past := by
  obtain ⟨hre, him⟩ := hi
  simp [Wave.put, Wave.append, List.set_append_left _ _ hre, List.set_append_left _ _ him]

theorem butterfly_append (hw : w.Covers (i + h + 1)) :
    butterfly d h p i (w.append past) = (butterfly d h p i w).append past := by
  have hwi : w.Covers (i + 1) := hw.mono (by omega)
  rw [butterfly, Wave.at_append hw, Wave.at_append hwi, Wave.put_append hw,
    Wave.put_append (Wave.put_covers hwi), butterfly]

theorem groupWalk_append (hk : ∀ m, m < k → i + 2 * h * m + h < n) (hw : w.Covers n) :
    groupWalk d h p k i (w.append past) = (groupWalk d h p k i w).append past := by
  induction k generalizing i w with
  | zero => rfl
  | succ k ih =>
    have hi : i + h < n := hk 0 k.succ_pos
    rw [groupWalk, butterfly_append (hw.mono hi), ih _ (butterfly_covers hw), groupWalk]
    intro m hm
    have hnext := hk (m + 1) (Nat.succ_lt_succ hm)
    rwa [Nat.mul_succ, Nat.add_comm (2 * h * m), ← Nat.add_assoc] at hnext

/-- The last pair of every group of a stage is below the length (41_fft.md R139). -/
theorem pair_lt {m : Nat} (hdvd : 2 * h ∣ n) (hg : g < h) (hm : m < n / (2 * h)) :
    g + 2 * h * m + h < n := by
  have hle : 2 * h * (m + 1) ≤ n := by
    calc 2 * h * (m + 1) ≤ 2 * h * (n / (2 * h)) := Nat.mul_le_mul_left _ hm
      _ = n := Nat.mul_div_cancel' hdvd
  rw [Nat.mul_succ] at hle
  omega

theorem stageGroups_append (hdvd : 2 * h ∣ n) (hk : g + k ≤ h) (hw : w.Covers n) :
    stageGroups d n h s k g p (w.append past) = (stageGroups d n h s k g p w).append past := by
  induction k generalizing g p w with
  | zero => rfl
  | succ k ih =>
    rw [stageGroups, groupWalk_append (fun m => pair_lt hdvd (by omega)) hw,
      ih (by omega) (groupWalk_covers hw), stageGroups]

theorem stage_append (hdvd : 2 * h ∣ n) (hw : w.Covers n) :
    stage d n twcos twsin h (w.append past) = (stage d n twcos twsin h w).append past :=
  stageGroups_append hdvd (Nat.zero_add h).le hw

theorem stage_covers (hw : w.Covers n) : (stage d n twcos twsin h w).Covers n := by
  simpa [Wave.Covers] using hw

theorem stages_append (hdvd : 2 ^ k * h ∣ n) (hw : w.Covers n) :
    stages d n twcos twsin k h (w.append past) = (stages d n twcos twsin k h w).append past := by
  induction k generalizing h w with
  | zero => rfl
  | succ k ih =>
    have hstep : 2 ^ (k + 1) * h = 2 ^ k * (2 * h) := by rw [Nat.pow_succ, Nat.mul_assoc]
    rw [hstep] at hdvd
    rw [stages, stage_append (dvd_of_mul_left_dvd hdvd) hw, ih hdvd (stage_covers hw), stages]

/-! ### The ROM entries a transform reads -/

/-- A stage reads the ROM at its half-size only (41_fft.md R136). -/
theorem stage_congr {twcos' twsin' : List F64} (hcos : twcos[h]? = twcos'[h]?)
    (hsin : twsin[h]? = twsin'[h]?) : stage d n twcos twsin h w = stage d n twcos' twsin' h w := by
  simp [stage, elem, hcos, hsin]

theorem stages_congr {twcos' twsin' : List F64}
    (htab : ∀ j, j < k → twcos[2 ^ j * h]? = twcos'[2 ^ j * h]? ∧
      twsin[2 ^ j * h]? = twsin'[2 ^ j * h]?) :
    stages d n twcos twsin k h w = stages d n twcos' twsin' k h w := by
  induction k with
  | zero => rfl
  | succ k ih =>
    obtain ⟨hcos, hsin⟩ := htab k k.lt_succ_self
    rw [stages_succ, stages_succ, ih fun j hj => htab j (Nat.lt_succ_of_lt hj),
      stage_congr hcos hsin]

end Sys2Proof.Machine
end

section
/-! SUPPORT. The peak of a list of magnitudes: the scan over one magnitude more (41_fft.md R144,
90_conflicts.md C8). -/

namespace Sys2Proof.Machine

variable {a b c : F64}

theorem isNaN_eq_false_of_fgt (h : fgt a b = true) : isNaN a = false ∧ isNaN b = false := by
  simp only [fgt, Bool.and_eq_true, Bool.not_eq_true'] at h
  exact h.1

theorem fgt_trans (hab : fgt a b = true) (hbc : fgt b c = true) : fgt a c = true := by
  obtain ⟨ha, hb⟩ := isNaN_eq_false_of_fgt hab
  obtain ⟨-, hc⟩ := isNaN_eq_false_of_fgt hbc
  rw [fgt_iff ha hb] at hab
  rw [fgt_iff hb hc] at hbc
  exact (fgt_iff ha hc).mpr (hbc.trans hab)

/-- What is above a value is above everything that value is not below. -/
theorem fgt_of_fgt_of_not_fgt (hab : fgt a b = true) (hc : isNaN c = false)
    (hcb : fgt c b = false) : fgt a c = true := by
  obtain ⟨ha, hb⟩ := isNaN_eq_false_of_fgt hab
  rw [fgt_iff ha hb] at hab
  rw [← Bool.not_eq_true, fgt_iff hc hb] at hcb
  rw [fgt_iff ha hc]
  omega

theorem fgt_self (a : F64) : fgt a a = false := by simp [fgt]

theorem fgt_eq_false_of_isZero (ha : isZero a = true) (hb : isZero b = true) :
    fgt a b = false := by
  rw [Bool.eq_false_iff, Ne, fgt_iff_signedUnits (isFinite_of_isZero ha) (isFinite_of_isZero hb),
    signedUnits_of_isZero ha, signedUnits_of_isZero hb]
  exact lt_irrefl 0

theorem peakScan_append (xs ys : List F64) (i : Nat) (best : PeakAt) :
    peakScan (xs ++ ys) i best = peakScan ys (i + xs.length) (peakScan xs i best) := by
  induction xs generalizing i best with
  | nil => rfl
  | cons x xs ih =>
    rw [List.cons_append, peakScan, ih, peakScan, List.length_cons, Nat.add_assoc,
      Nat.add_comm 1]

/-- One magnitude more replaces the peak where it is greater. -/
theorem peakOf_append_singleton (mags : List F64) (m : F64) :
    peakOf (mags ++ [m]) =
      if fgt m (peakOf mags).value then { band := mags.length, value := m } else peakOf mags := by
  rw [peakOf, peakScan_append, Nat.zero_add]
  rfl

/-- The peak `r` is the first largest of the magnitudes above +0, or the start of the scan where
there is none. -/
structure FirstLargest (mags : List F64) (r : PeakAt) : Prop where
  not_nan : isNaN r.value = false
  largest : ∀ m ∈ mags, fgt m r.value = false
  found   : r = { band := 0, value := posZero } ∨ mags[r.band]? = some r.value
  first   : ∀ j, j < r.band → ∀ m, mags[j]? = some m → isNaN m = true ∨ fgt r.value m = true

theorem peakOf_firstLargest (mags : List F64) : FirstLargest mags (peakOf mags) := by
  induction mags using List.reverseRecOn with
  | nil => exact ⟨by decide, by simp, .inl rfl, by simp⟩
  | append_singleton mags m ih =>
    obtain ⟨hnan, hlargest, hfound, hfirst⟩ := ih
    have hbelow : ∀ x ∈ mags, fgt m (peakOf mags).value = true → isNaN x = true ∨ fgt m x = true :=
      fun x hx hm => by
        cases hxn : isNaN x with
        | true => exact .inl rfl
        | false => exact .inr (fgt_of_fgt_of_not_fgt hm hxn (hlargest x hx))
    rw [peakOf_append_singleton]
    split
    next hm =>
      refine ⟨(isNaN_eq_false_of_fgt hm).1, List.forall_mem_append.mpr ⟨fun x hx => ?_, ?_⟩,
        .inr List.getElem?_concat_length, fun j hj x hx => ?_⟩
      · rw [Bool.eq_false_iff]
        intro hxm
        simpa [hlargest x hx] using fgt_trans hxm hm
      · exact List.forall_mem_singleton.mpr (fgt_self m)
      · rw [List.getElem?_append_left hj] at hx
        exact hbelow x (List.mem_of_getElem? hx) hm
    next hm =>
      have hband := peakOf_band_lt mags
      refine ⟨hnan, List.forall_mem_append.mpr ⟨hlargest, ?_⟩, ?_, fun j hj x hx => ?_⟩
      · exact List.forall_mem_singleton.mpr (Bool.eq_false_iff.mpr hm)
      · exact hfound.imp_right fun h => by
          rw [List.getElem?_append_left (List.getElem?_eq_some_iff.mp h).1, h]
      · rw [List.getElem?_append_left (by omega)] at hx
        exact hfirst j hj x hx

/-- Where every magnitude is a zero or a NaN, the scan ends where it starts (90_conflicts.md C8). -/
theorem peakOf_of_isNaN_or_isZero {mags : List F64}
    (h : ∀ m ∈ mags, isNaN m = true ∨ isZero m = true) :
    peakOf mags = { band := 0, value := posZero } := by
  induction mags using List.reverseRecOn with
  | nil => rfl
  | append_singleton mags m ih =>
    have hstay : fgt m posZero = false := by
      obtain hm | hm := h m (by simp)
      · exact fgt_eq_false_of_isNaN (.inl hm)
      · exact fgt_eq_false_of_isZero hm isZero_posZero
    rw [peakOf_append_singleton, ih fun x hx => h x (List.mem_append_left _ hx), hstay]
    rfl

end Sys2Proof.Machine
end

section
/-! SUPPORT. The commands whose checks pass, and the sources of the inverse (41_fft.md R140 to
R147). -/

namespace Sys2Proof.Machine

variable {s : State}

/-! ### The checks -/

theorem State.faulted_eq_false (h : s.fft.err = 0) : s.faulted = false := by
  rw [Bool.eq_false_iff, Ne, s.faulted_iff, not_not, h]

theorem transformFault_eq_none {k want : Nat} (herr : s.fft.err = 0) (hp : isPow2 s.len = true)
    (hk : k = want) : transformFault s k want = none :=
  (transformFault_none_iff ..).mpr ⟨State.faulted_eq_false herr, hp, hk⟩

/-- Up to the capacity `FFT.CFG` configures (41_fft.md R140). -/
theorem exec_fftCfg_of_le {n : BitVec 24} (fs : F64) (hn : n.toNat ≤ Config.nMax) :
    exec (.fftCfg n fs) s = .next ((s.configure n fs).respond .ok []) := by
  simp only [exec, execFftCfg, if_neg hn.not_gt, answer_eq]

/-- Past the capacity it raises `E_CAPACITY` (60_exceptions.md R237). -/
theorem exec_fftCfg_of_lt {n : BitVec 24} (fs : F64) (hn : Config.nMax < n.toNat) :
    exec (.fftCfg n fs) s = raise .capacity s := by
  simp only [exec, execFftCfg, if_pos hn]

/-- An `FFT.INV` whose checks pass completes (41_fft.md R146). -/
theorem exec_fftInv_of_checks {src : BitVec 2} {ops : List F64}
    (hf : transformFault s ops.length (s.len * srcCount src) = none)
    (hw : s.mem.wf s.len = true) :
    exec (.fftInv src ops) s = .next ((s.drawn 1).respond .ok (inverseOut src ops s)) := by
  simp only [exec, execFftInv, hf, hw, if_true, answer_eq]

/-! ### The sources of the inverse -/

theorem srcCount_eq (src : BitVec 2) : srcCount src = src[0].toNat + src[1].toNat := by
  revert src; decide

variable {src : BitVec 2} {ops real imag : List F64}

/-- The operand words of the chosen sources, one array after the other (41_fft.md R146). -/
def sourceOps (src : BitVec 2) (real imag : List F64) : List F64 :=
  (if src[0] then real else []) ++ (if src[1] then imag else [])

theorem sourceOps_length (n : Nat) (hre : real.length = n) (him : imag.length = n) :
    (sourceOps src real imag).length = n * srcCount src := by
  rw [srcCount_eq, sourceOps, List.length_append]
  cases src[0] <;> cases src[1] <;> simp [hre, him, Nat.mul_two]

theorem invReal_sourceOps {n : Nat} {m : Memory} (hre : real.length = n)
    (hstored : src[0] = false → real = m.re) :
    invReal src (sourceOps src real imag) n m = real := by
  rw [invReal, sourceOps]
  cases h : src[0] with
  | false => simp [hstored h]
  | true => simp [← hre]

theorem invImag_sourceOps {n : Nat} {m : Memory} (hre : real.length = n) (him : imag.length = n)
    (hstored : src[1] = false → imag = m.im) :
    invImag src (sourceOps src real imag) n m = imag := by
  rw [invImag, sourceOps]
  cases h : src[1] with
  | false => simp [hstored h]
  | true => cases src[0] <;> simp [← hre, him]

end Sys2Proof.Machine
end

section
/-! SUPPORT. A NaN's pattern through the network: waves equal up to NaN are waves with the same image
once the patterns are forgotten, and every stage keeps that (40_numerics.md R105, 41_fft.md R147). -/

namespace Sys2Proof.Machine

@[simp] theorem isNaN_forgetNaN (a : F64) : isNaN (forgetNaN a) = isNaN a := by
  cases h : isNaN a <;> simp [forgetNaN, h]

theorem sameUpToNaN_iff_forgetNaN {a b : F64} :
    sameUpToNaN a b = true ↔ forgetNaN a = forgetNaN b := by
  refine ⟨forgetNaN_congr, fun h => sameUpToNaN_iff.mpr ?_⟩
  have hnan : isNaN a = isNaN b := by rw [← isNaN_forgetNaN a, h, isNaN_forgetNaN]
  cases hb : isNaN b with
  | true => exact .inr ⟨hnan.trans hb, rfl⟩
  | false => exact .inl (by simpa [forgetNaN, hnan, hb] using h)

/-- A complex number with the patterns of its NaNs forgotten. -/
def Cplx.forget (c : Cplx) : Cplx := { re := forgetNaN c.re, im := forgetNaN c.im }

/-- The two arrays with the patterns of their NaNs forgotten. -/
def Wave.forget (w : Wave) : Wave := { re := w.re.map forgetNaN, im := w.im.map forgetNaN }

theorem Cplx.forget_eq_iff {a b : Cplx} : a.forget = b.forget ↔
    sameUpToNaN a.re b.re = true ∧ sameUpToNaN a.im b.im = true := by
  simp [Cplx.forget, sameUpToNaN_iff_forgetNaN]

theorem elem_map_forgetNaN (xs : List F64) (i : Nat) :
    elem (xs.map forgetNaN) i = forgetNaN (elem xs i) := by
  have hmap := List.getD_map (l := xs) (n := i) (d := posZero) forgetNaN
  rwa [show forgetNaN posZero = posZero by decide] at hmap

theorem Wave.at_forget (w : Wave) (i : Nat) : w.forget.at i = (w.at i).forget := by
  simp [Wave.at, Wave.forget, Cplx.forget, elem_map_forgetNaN]

theorem Wave.forget_put (w : Wave) (i : Nat) (c : Cplx) :
    (w.put i c).forget = w.forget.put i c.forget := by
  simp [Wave.put, Wave.forget, Cplx.forget, List.map_set]

section Congruence

variable {a a' b b' p p' : Cplx} {w w' : Wave} (d d' : Nat)

theorem cmul_forget (ha : a.forget = a'.forget) (hb : b.forget = b'.forget) :
    (cmul d a b).forget = (cmul d' a' b').forget := by
  obtain ⟨hare, haim⟩ := Cplx.forget_eq_iff.mp ha
  obtain ⟨hbre, hbim⟩ := Cplx.forget_eq_iff.mp hb
  exact Cplx.forget_eq_iff.mpr
    ⟨sameUpToNaN_fsub d d' (sameUpToNaN_fmul d d' hare hbre) (sameUpToNaN_fmul d d' haim hbim),
      sameUpToNaN_fadd d d' (sameUpToNaN_fmul d d' hare hbim) (sameUpToNaN_fmul d d' haim hbre)⟩

theorem cadd_forget (ha : a.forget = a'.forget) (hb : b.forget = b'.forget) :
    (cadd d a b).forget = (cadd d' a' b').forget := by
  obtain ⟨hare, haim⟩ := Cplx.forget_eq_iff.mp ha
  obtain ⟨hbre, hbim⟩ := Cplx.forget_eq_iff.mp hb
  exact Cplx.forget_eq_iff.mpr ⟨sameUpToNaN_fadd d d' hare hbre, sameUpToNaN_fadd d d' haim hbim⟩

theorem csub_forget (ha : a.forget = a'.forget) (hb : b.forget = b'.forget) :
    (csub d a b).forget = (csub d' a' b').forget := by
  obtain ⟨hare, haim⟩ := Cplx.forget_eq_iff.mp ha
  obtain ⟨hbre, hbim⟩ := Cplx.forget_eq_iff.mp hb
  exact Cplx.forget_eq_iff.mpr ⟨sameUpToNaN_fsub d d' hare hbre, sameUpToNaN_fsub d d' haim hbim⟩

theorem butterfly_forget (h i : Nat) (hp : p.forget = p'.forget) (hw : w.forget = w'.forget) :
    (butterfly d h p i w).forget = (butterfly d' h p' i w').forget := by
  have hat (j : Nat) : (w.at j).forget = (w'.at j).forget := by
    rw [← Wave.at_forget, hw, Wave.at_forget]
  have ht := cmul_forget d d' hp (hat (i + h))
  simp only [butterfly, Wave.forget_put, hw, cadd_forget d d' (hat i) ht,
    csub_forget d d' (hat i) ht]

theorem groupWalk_forget (h k i : Nat) (hp : p.forget = p'.forget) (hw : w.forget = w'.forget) :
    (groupWalk d h p k i w).forget = (groupWalk d' h p' k i w').forget := by
  induction k generalizing i w w' with
  | zero => exact hw
  | succ k ih => exact ih _ (butterfly_forget d d' h i hp hw)

theorem stageGroups_forget (n h : Nat) (s : Cplx) (k g : Nat) (hp : p.forget = p'.forget)
    (hw : w.forget = w'.forget) :
    (stageGroups d n h s k g p w).forget = (stageGroups d' n h s k g p' w').forget := by
  induction k generalizing g p p' w w' with
  | zero => exact hw
  | succ k ih => exact ih _ (cmul_forget d d' hp rfl) (groupWalk_forget d d' h _ g hp hw)

theorem stages_forget (n : Nat) (twcos twsin : List F64) (k h : Nat)
    (hw : w.forget = w'.forget) :
    (stages d n twcos twsin k h w).forget = (stages d' n twcos twsin k h w').forget := by
  induction k generalizing h w w' with
  | zero => exact hw
  | succ k ih => exact ih _ (stageGroups_forget d d' n h _ h 0 rfl hw)

/-- The scaled real parts of two waves equal up to NaN are equal up to NaN (41_fft.md R148). -/
theorem sameUpToNaN_scaledReal (n : Nat) (hw : w.forget = w'.forget) :
    List.Forall₂ (fun a b => sameUpToNaN a b = true) (scaledReal d n w) (scaledReal d' n w') := by
  have hre : w.re.map forgetNaN = w'.re.map forgetNaN := congrArg Wave.re hw
  rw [← List.forall₂_eq_eq_eq, List.forall₂_map_left_iff, List.forall₂_map_right_iff] at hre
  rw [scaledReal, scaledReal, List.forall₂_map_left_iff, List.forall₂_map_right_iff]
  exact hre.imp fun x y hxy =>
    sameUpToNaN_fmul d d' (sameUpToNaN_iff_forgetNaN.mpr hxy) (sameUpToNaN_fdiv_draw d d' _ _)

end Congruence

/-- The inverses of two states that differ in the draws are equal up to NaN (41_fft.md R147). -/
theorem sameUpToNaN_inverseOut {s t : State} (src : BitVec 2) (ops : List F64)
    (hlen : t.len = s.len) (hmem : t.mem = s.mem) :
    List.Forall₂ (fun a b => sameUpToNaN a b = true) (inverseOut src ops s)
      (inverseOut src ops t) := by
  rw [inverseOut, inverseOut, inverseWave, inverseWave, hlen, hmem]
  refine sameUpToNaN_scaledReal _ _ _ (stages_forget _ _ _ _ _ _ _ ?_)
  simp only [Wave.forget, List.map_map, Wave.mk.injEq, true_and]
  exact List.map_congr_left fun x _ => forgetNaN_congr (sameUpToNaN_fneg_draw _ _ x)

end Sys2Proof.Machine
end

section
/-! SUPPORT. The reciprocal of a power of two is exact, so scaling by it is one rounding (41_fft.md
R148). -/

namespace Sys2Proof.Machine

variable {k : Nat} {x : F64}

theorem roundMag_mul_right (num den : Nat) {c : Nat} (hc : 0 < c) :
    roundMag (num * c) (den * c) = roundMag num den := by
  have hquot (e : Nat) : roundQuot (num * c) (e * c) = roundQuot num e := by
    simp only [roundQuot, Nat.mul_div_mul_right _ _ hc, Nat.mul_mod_mul_right, ← Nat.mul_assoc,
      Nat.mul_lt_mul_right hc, Nat.mul_left_inj hc.ne']
  rw [roundMag, roundMag, Nat.mul_div_mul_right _ _ hc, Nat.mul_right_comm, hquot]

theorem isZero_eq_false_of_units (h : units x ≠ 0) : isZero x = false := by
  rwa [Bool.eq_false_iff, Ne, ← units_eq_zero_iff]

theorem units_one : units one = unitsPerOne := by decide +kernel

theorem two_pow_mul_two_pow_sub (hk : k ≤ 20) : 2 ^ k * 2 ^ (1074 - k) = unitsPerOne := by
  rw [pow_mul_pow_sub 2 (by omega : k ≤ 1074), unitsPerOne]

/-- `2^k` is a finite non-zero value, exactly. -/
theorem i2f_two_pow (hk : k ≤ 20) :
    isFinite (i2f (2 ^ k)) = true ∧ isZero (i2f (2 ^ k)) = false ∧
      signBit (i2f (2 ^ k)) = false ∧ units (i2f (2 ^ k)) = 2 ^ k * unitsPerOne := by
  obtain ⟨hfin, hsign, hunits⟩ := i2f_exact (Nat.pow_lt_pow_right (by decide) (by omega) :
    2 ^ k < 2 ^ 53)
  have hpos : 0 < 2 ^ k * unitsPerOne := Nat.mul_pos (Nat.two_pow_pos k) unitsPerOne_pos
  exact ⟨hfin, isZero_eq_false_of_units (hunits ▸ hpos.ne'), hsign, hunits⟩

/-- The reciprocal of `2^k` is `2^(1074 - k)` units, exactly. -/
theorem fdiv_one_i2f_two_pow (d : Nat) (hk : k ≤ 20) :
    isFinite (fdiv d one (i2f (2 ^ k))) = true ∧ signBit (fdiv d one (i2f (2 ^ k))) = false ∧
      units (fdiv d one (i2f (2 ^ k))) = 2 ^ (1074 - k) := by
  obtain ⟨hfin, hz, hsign, hunits⟩ := i2f_two_pow hk
  have hpos : 0 < 2 ^ k * unitsPerOne := Nat.mul_pos (Nat.two_pow_pos k) unitsPerOne_pos
  obtain ⟨m, hm⟩ := exists_magUnits_eq (1074 - k) (by decide : 1 < 2 ^ 53)
  rw [Nat.one_mul] at hm
  have hlt : m < infMag := by
    have hle : m ≤ magBits one := by
      rw [← magUnits_strictMono.le_iff_le, hm, ← units_eq_magUnits, units_one]
      exact Nat.le_of_dvd unitsPerOne_pos (Dvd.intro_left _ (two_pow_mul_two_pow_sub hk))
    exact hle.trans_lt (by decide)
  have hround : fdiv d one (i2f (2 ^ k)) = pack false m := by
    have hexact : unitsPerOne * unitsPerOne = magUnits m * (2 ^ k * unitsPerOne) := by
      rw [hm, ← Nat.mul_assoc, Nat.mul_comm (2 ^ (1074 - k)), two_pow_mul_two_pow_sub hk]
    rw [fdiv_of_isFinite d (by decide) hfin hz, hsign, units_one, hunits, hexact,
      roundMag_magUnits m hpos hlt.le]
    rfl
  have hbits : m < 2 ^ 63 := hlt.trans (by decide)
  rw [hround, isFinite_iff, units_eq_magUnits, magBits_pack false m hbits,
    signBit_pack false m hbits]
  exact ⟨hlt, rfl, hm⟩

/-- A finite value by the reciprocal of `2^k` and by `2^k` is one rational, rounded once. -/
theorem fmul_reciprocal_eq_fdiv_of_isFinite (d : Nat) (hk : k ≤ 20) (hx : isFinite x = true) :
    fmul d x (fdiv d one (i2f (2 ^ k))) = fdiv d x (i2f (2 ^ k)) := by
  obtain ⟨hfin, hz, hsign, hunits⟩ := i2f_two_pow hk
  obtain ⟨hrfin, hrsign, hrunits⟩ := fdiv_one_i2f_two_pow d hk
  have hround : roundMag (units x * 2 ^ (1074 - k)) unitsPerOne =
      roundMag (units x * unitsPerOne) (2 ^ k * unitsPerOne) := by
    calc roundMag (units x * 2 ^ (1074 - k)) unitsPerOne
        = roundMag (units x * 2 ^ (1074 - k)) (2 ^ k * 2 ^ (1074 - k)) := by
          rw [two_pow_mul_two_pow_sub hk]
      _ = roundMag (units x) (2 ^ k) := roundMag_mul_right _ _ (Nat.two_pow_pos _)
      _ = roundMag (units x * unitsPerOne) (2 ^ k * unitsPerOne) :=
          (roundMag_mul_right _ _ unitsPerOne_pos).symm
  rw [fmul_of_isFinite d hx hrfin, fdiv_of_isFinite d hx hfin hz, hrsign, hsign, hrunits, hunits,
    hround]

/-- An infinity by the reciprocal of `2^k` and by `2^k` is the infinity. -/
theorem fmul_reciprocal_eq_fdiv_of_isInf (d : Nat) (hk : k ≤ 20) (hx : isInf x = true) :
    fmul d x (fdiv d one (i2f (2 ^ k))) = fdiv d x (i2f (2 ^ k)) := by
  obtain ⟨hfin, -, hsign, -⟩ := i2f_two_pow hk
  obtain ⟨hrfin, hrsign, hrunits⟩ := fdiv_one_i2f_two_pow d hk
  have hrz := isZero_eq_false_of_units (hrunits ▸ (Nat.two_pow_pos (1074 - k)).ne')
  rw [fmul, fdiv.eq_def d x]
  simp [hx, hrz, hrsign, hsign, isNaN_eq_false_of_isInf, isNaN_eq_false_of_isFinite, hrfin, hfin,
    isInf_eq_false_of_isFinite]

end Sys2Proof.Machine
end

section
/-! SUPPORT. The statements about the FFTEngine (41_fft.md). -/

namespace Sys2Proof.Machine

/-- Settles O20: after `j` doublings the entries of the first `2^j` indices are there. -/
theorem doublingBuildsTheReverseTable : Obligations.DoublingBuildsTheReverseTable := by
  unfold Obligations.DoublingBuildsTheReverseTable
  intro k hk
  rw [revByDoubling_eq_map_bitrev le_rfl, revTable_of_isPow2 (isPow2_two_pow hk), log2_two_pow]

/-- Settles O21: the tables are maps over the indices, and the angle of index 0 is an infinity, of
which the sine and the cosine are NaNs. -/
theorem configurationBuildsTheTables : Obligations.ConfigurationBuildsTheTables := by
  unfold Obligations.ConfigurationBuildsTheTables
  intro s n fs hn
  have hmem : ((s.configure n fs).respond .ok []).mem = Memory.configured n.toNat := rfl
  refine ⟨_, exec_fftCfg_of_le fs hn, ?_⟩
  rw [hmem]
  refine ⟨fun hp => ?_, fun hp => ?_, sinTable_length _, cosTable_length _, fun i hi => ?_⟩
  · simp +contextual [Memory.configured, revTable_of_isPow2 hp]
  · simp [Memory.configured, revTable, hp]
  · have hsin : (Memory.configured n.toNat).twsin[i]? = some (romSin i) := sinTable_getElem? hi
    have hcos : (Memory.configured n.toNat).twcos[i]? = some (romCos i) := cosTable_getElem? hi
    refine ⟨hsin, hcos, ?_⟩
    rintro rfl
    exact ⟨_, _, hsin, hcos, isNaN_romSin_zero, isNaN_romCos_zero⟩

/-- Settles O22: the pair of a butterfly is left alone by every other pair of its stage. -/
theorem butterflyCombinesOnePair : Obligations.ButterflyCombinesOnePair := by
  unfold Obligations.ButterflyCombinesOnePair
  refine ⟨?_, ?_, ?_⟩
  · intro d h i pr pi w ri ii ro io hh hri hii hro hio
    have hw : w.Covers (i + h + 1) :=
      ⟨(List.getElem?_eq_some_iff.mp hro).1, (List.getElem?_eq_some_iff.mp hio).1⟩
    obtain ⟨hor, hoi, hir, hii'⟩ := (butterfly_combines (d := d) (p := ⟨pr, pi⟩) hh hw).getElem?
      (butterfly_covers hw) hri hii hro hio
    exact ⟨hor, hoi, hir, hii', fun j hi ho => butterfly_getElem?_of_ne hi ho⟩
  · intro d k j cosA sinA sr si w hj hre him hcos hsin
    have hw : w.Covers (2 ^ k) := ⟨hre.ge, him.ge⟩
    have hdvd : 2 * 2 ^ j ∣ 2 ^ k := by
      rw [← Nat.pow_succ']
      exact Nat.pow_dvd_pow 2 hj
    obtain ⟨hvre, hvim⟩ := stage_length d (2 ^ k) cosA sinA (2 ^ j) w
    refine ⟨hvre.trans hre, hvim.trans him, fun i ri ii ro io hmod hri hii hro hio => ?_⟩
    have hi : i + 2 ^ j < 2 ^ k := hre ▸ (List.getElem?_eq_some_iff.mp hro).1
    have hcomb := stage_combines (d := d) (twcos := cosA) (twsin := sinA) hdvd hmod hi hw
    rw [elem_eq_of_getElem? hcos, elem_eq_of_getElem? hsin] at hcomb
    exact hcomb.getElem? ((stage_covers hw).mono hi) hri hii hro hio
  · intro d k cosA sinA w
    refine ⟨fun j => stages d (2 ^ k) cosA sinA j 1 w, rfl, fun j _ => ?_, butterflies_two_pow⟩
    simp only [stages_succ, Nat.mul_one]

/-- Settles O23: the pairs of every stage are below the length. -/
theorem networkStaysBelowTheLength : Obligations.NetworkStaysBelowTheLength := by
  unfold Obligations.NetworkStaysBelowTheLength
  intro d k c s w pastRe pastIm hre him
  have happend := stages_append (d := d) (twcos := c) (twsin := s) (past := ⟨pastRe, pastIm⟩)
    (Nat.mul_one (2 ^ k)).dvd ⟨hre.ge, him.ge⟩
  rwa [← butterflies_two_pow, ← butterflies_two_pow] at happend

/-- Settles O24: the stages read the ROM at their half-sizes only. -/
theorem networkReadsPowerOfTwoEntriesOnly : Obligations.NetworkReadsPowerOfTwoEntriesOnly := by
  unfold Obligations.NetworkReadsPowerOfTwoEntriesOnly
  intro d k cosA sinA cosB sinB w htab
  rw [butterflies_two_pow, butterflies_two_pow]
  exact stages_congr fun j hj => by rw [Nat.mul_one]; exact htab j hj

/-- Settles O25: the one check of `FFT.CFG` is the capacity. -/
theorem cfgConstructsTheEngine : Obligations.CfgConstructsTheEngine := by
  unfold Obligations.CfgConstructsTheEngine
  exact fun s n fs => ⟨exec_fftCfg_of_le fs, exec_fftCfg_of_lt fs⟩

/-- Settles O26: the checks pass, and the load is the buffer at the reversed indices. -/
theorem forwardTransformsTheBuffer : Obligations.ForwardTransformsTheBuffer := by
  unfold Obligations.ForwardTransformsTheBuffer
  intro s buffer herr hp hlen hmem
  have hf : transformFault s buffer.length s.len = none := transformFault_eq_none herr hp hlen
  obtain ⟨hre, him⟩ := forwardWave_length buffer s hmem.wf hp
  refine ⟨bitReversed s.mem.rev buffer, forwardWave buffer s, _, _, _, _, ?_, fun i hi => ?_, rfl,
    hre, him, ?_, ?_, fun i hi re im hwre hwim => ?_, exec_fftFwd_of_checks hf hmem.wf⟩
  · rw [hmem.rev, bitReversed_revTable_length hp]
  · rw [hmem.rev, bitReversed_revTable_getElem? hp hlen hi]
  · simp [magnitudes]
  · simp [phases]
  · simp [magnitudes, phases, hi, elem_eq_of_getElem? hwre, elem_eq_of_getElem? hwim, magnitude,
      magScale]

/-- Settles O27: the peak is the first largest of the magnitudes, and a peak above +0 has been
found among them. -/
theorem peakIsTheFirstLargestMagnitude : Obligations.PeakIsTheFirstLargestMagnitude := by
  unfold Obligations.PeakIsTheFirstLargestMagnitude
  intro s t buffer herr hp hlen hmem ht
  have hf : transformFault s buffer.length s.len = none := transformFault_eq_none herr hp hlen
  rw [exec_fftFwd_of_checks hf hmem.wf, Host.Outcome.next.injEq] at ht
  have hpeak : t.fft.peak = (peakOf t.mem.mag).value := by rw [← ht]; rfl
  have hpeakBand : t.fft.peakBand = BitVec.ofNat 24 (peakOf t.mem.mag).band := by rw [← ht]; rfl
  have hmaglen : t.mem.mag.length = s.len / 2 := by
    rw [← ht]
    simp [State.forward, magnitudes]
  have hband : t.fft.peakBand.toNat = (peakOf t.mem.mag).band := by
    have hlt := peakOf_band_lt t.mem.mag
    have hsize := s.len_lt
    rw [hpeakBand, BitVec.toNat_ofNat, Nat.mod_eq_of_lt (by omega)]
  obtain ⟨hnan, hlargest, hfound, hfirst⟩ := peakOf_firstLargest t.mem.mag
  rw [hpeak, hband]
  refine ⟨hnan, hlargest, fun hpos => ⟨hfound.resolve_left fun hstart => ?_, hfirst⟩,
    fun hall => ?_⟩
  · rw [hstart, fgt_self] at hpos
    cases hpos
  · rw [hpeakBand, peakOf_of_isNaN_or_isZero hall]
    exact ⟨rfl, rfl⟩

/-- Settles O29: the checks pass on the operand words of the sources, and each source is read
back from them or from the engine. -/
theorem inverseAnswersTheTimeBuffer : Obligations.InverseAnswersTheTimeBuffer := by
  unfold Obligations.InverseAnswersTheTimeBuffer
  intro s src ops real imag herr hp hmem hre him hops hreal himag
  obtain rfl : ops = sourceOps src real imag := hops
  have hf := transformFault_eq_none herr hp (sourceOps_length (src := src) s.len hre him)
  have hout : inverseOut src (sourceOps src real imag) s = scaledReal s.draws s.len
      (butterflies s.draws s.len s.mem.twcos s.mem.twsin
        { re := bitReversed s.mem.rev real
          im := (bitReversed s.mem.rev imag).map (fneg s.draws) }) := by
    rw [inverseOut, inverseWave, invReal_sourceOps hre hreal, invImag_sourceOps hre him himag]
  refine ⟨bitReversed s.mem.rev real, (bitReversed s.mem.rev imag).map (fneg s.draws), _, ?_, ?_,
    inverseOut_length src _ hmem.wf hp, fun i hi => ?_, fun i hi => ?_, fun i _ => ?_,
    exec_fftInv_of_checks hf hmem.wf⟩
  · rw [hmem.rev, bitReversed_revTable_length hp]
  · rw [List.length_map, hmem.rev, bitReversed_revTable_length hp]
  · rw [hmem.rev, bitReversed_revTable_getElem? hp hre hi]
  · rw [List.getElem?_map, hmem.rev, bitReversed_revTable_getElem? hp him hi]
  · rw [hout, scaledReal, List.getElem?_map]

/-- Settles O30: the second inverse runs on the same arrays with another draw, which matters in the
patterns of NaNs only. -/
theorem repeatedInverseAnswersTheSame : Obligations.RepeatedInverseAnswersTheSame := by
  unfold Obligations.RepeatedInverseAnswersTheSame
  intro s herr hp hmem
  have hf (t : State) (hfft : t.fft = s.fft) :
      transformFault t ([] : List F64).length (t.len * srcCount 0) = none := by
    refine transformFault_eq_none (hfft ▸ herr) ?_ ?_
    · rw [State.len, hfft]; exact hp
    · simp [srcCount_eq]
  exact ⟨_, _, _, _, exec_fftInv_of_checks (hf s rfl) hmem.wf,
    exec_fftInv_of_checks (hf _ rfl) hmem.wf, rfl, rfl, sameUpToNaN_inverseOut 0 [] rfl rfl,
    rfl, rfl, rfl, rfl⟩

/-- Settles O31: the reciprocal is exact, so the product and the quotient round one rational. -/
theorem scalingIsExactDivision : Obligations.ScalingIsExactDivision := by
  unfold Obligations.ScalingIsExactDivision
  intro d k x hk hx
  cases hi : isInf x with
  | true => exact fmul_reciprocal_eq_fdiv_of_isInf d hk hi
  | false =>
    exact fmul_reciprocal_eq_fdiv_of_isFinite d hk (isFinite_of_not_isNaN_of_not_isInf hx hi)

/-- Settles O32: the one check of `FFT.BANDF` is the latch. -/
theorem bandFrequencyAnswersTheFormula : Obligations.BandFrequencyAnswersTheFormula := by
  unfold Obligations.BandFrequencyAnswersTheFormula
  refine fun s idx => ⟨fun herr => ?_, fun herr => ?_⟩
  · simp only [exec, execFftBandf, State.faulted_eq_false herr, Bool.false_eq_true, if_false,
      answer_eq]
    rfl
  · exact exec_of_faulted (s.faulted_iff.mpr herr) (.inr (.inr ⟨idx, rfl⟩))

end Sys2Proof.Machine
end

section
/-! SUPPORT. The operands of `BQ.SET`, and the coefficient sets by the row of the type code
(42_biquad_designer.md R171, R172, R180, R192). -/

namespace Sys2Proof.Machine

variable {type pm : BitVec 4} {ops : List F64}

/-! ### The operands of `BQ.SET` -/

/-- Where enough words are left, a present bit takes the first of them. -/
theorem takePresent_eq {present : Bool} (h : present.toNat ≤ ops.length) :
    takePresent present ops =
      some (if present then ops[0]? else none, ops.drop present.toNat) := by
  match present, ops with
  | false, _     => rfl
  | true, _ :: _ => rfl

/-- The operands that the present bits announce, the words in the order f0, Q, gainDb. -/
def announcedArgs (type pm : BitVec 4) (ops : List F64) : SetArgs :=
  { type := if pm[0] then some type else none
    f0   := if pm[1] then ops[0]? else none
    q    := if pm[2] then ops[(pm[1]).toNat]? else none
    gain := if pm[3] then ops[(pm[1]).toNat + (pm[2]).toNat]? else none }

/-- A well-formed `BQ.SET` has the operands its present bits announce (42_biquad_designer.md R171).
-/
theorem setArgs_eq_of_wf (h : (Instr.bqSet type pm ops).wf = true) :
    setArgs type pm ops = some (announcedArgs type pm ops) := by
  simp only [Instr.wf, presentCount, Bool.and_eq_true, beq_iff_eq] at h
  obtain ⟨htype, hcount⟩ := h
  have hf0 : (pm[1]).toNat ≤ ops.length := by omega
  have hq : (pm[2]).toNat ≤ (ops.drop (pm[1]).toNat).length := by
    rw [List.length_drop]; omega
  have hgain : (pm[3]).toNat ≤ (ops.drop ((pm[1]).toNat + (pm[2]).toNat)).length := by
    rw [List.length_drop]; omega
  have hnil : ops.drop ((pm[1]).toNat + (pm[2]).toNat + (pm[3]).toNat) = [] :=
    List.drop_eq_nil_of_le hcount.le
  simp only [setArgs, announcedArgs, htype, takePresent_eq hf0, takePresent_eq hq, List.drop_drop,
    takePresent_eq hgain, hnil, List.getElem?_drop, Nat.add_zero, if_true, Bool.true_eq_false,
    if_false]

/-- A present operand word, or the default of an absent one. -/
theorem some_getD_ite {present : Bool} {x : Option F64} {fallback : F64}
    (h : present = true → x.isSome = true) :
    some ((if present then x else none).getD fallback) = if present then x else some fallback := by
  cases present with
  | false => rfl
  | true =>
    obtain ⟨word, rfl⟩ := Option.isSome_iff_exists.mp (h rfl)
    rfl

/-! ### The row of the type code -/

/-- The rows one after the other (42_biquad_designer.md R181 to R190). -/
theorem coeffSet_eq_ite (draw : Nat) (type : BitVec 4) (m : Intermediates) :
    coeffSet draw type m =
      if type.toNat = 0 then lowpassSet draw m
      else if type.toNat = 1 then highpassSet draw m
      else if type.toNat = 2 then bandpassSet draw m
      else if type.toNat = 3 then resonantSet draw m
      else if type.toNat = 4 then notchSet draw m
      else if type.toNat = 5 then allpassSet draw m
      else if type.toNat = 6 then peakingSet draw m
      else if type.toNat = 7 then lowShelfSet draw m
      else if type.toNat = 8 then highShelfSet draw m
      else passThroughSet := by
  unfold coeffSet
  generalize type.toNat = k
  match k with
  | 0 | 1 | 2 | 3 | 4 | 5 | 6 | 7 | 8 | _ + 9 => rfl

theorem coeffSet_of_nine_le (draw : Nat) (m : Intermediates) (h : 9 ≤ type.toNat) :
    coeffSet draw type m = passThroughSet := by
  unfold coeffSet
  generalize type.toNat = k at *
  match k, h with
  | _ + 9, _ => rfl

/-- The denominator of types 0 to 5 (42_biquad_designer.md R192). -/
theorem coeffSet_denominator (draw : Nat) (m : Intermediates) (h : type.toNat < 6) :
    (coeffSet draw type m).a0 = fadd draw one m.alpha ∧
      (coeffSet draw type m).a1 = negTwoCos draw m ∧
      (coeffSet draw type m).a2 = fsub draw one m.alpha := by
  unfold coeffSet
  generalize type.toNat = k at *
  match k, h with
  | 0, _ | 1, _ | 2, _ | 3, _ | 4, _ | 5, _ => exact ⟨rfl, rfl, rfl⟩

/-- Types 0 to 5 and the pass-through use neither the amplitude nor the shelf term. -/
theorem coeffSet_amp_shelf (draw : Nat) (m : Intermediates) (amp shelf : F64)
    (h : type.toNat < 6 ∨ 9 ≤ type.toNat) :
    coeffSet draw type { m with amp := amp, shelf := shelf } = coeffSet draw type m := by
  unfold coeffSet
  generalize type.toNat = k at *
  match k, h with
  | 0, _ | 1, _ | 2, _ | 3, _ | 4, _ | 5, _ | _ + 9, _ =>
    simp only [lowpassSet, highpassSet, bandpassSet, resonantSet, notchSet, allpassSet, negTwoCos]
  | 6, h | 7, h | 8, h => omega

/-- The gain enters the amplitude and the shelf term only. -/
theorem design_gain (draw : Nat) (p : BqParams) (gain : F64)
    (h : p.type.toNat < 6 ∨ 9 ≤ p.type.toNat) :
    design draw { p with gain := gain } = design draw p := by
  rw [design, design, ← coeffSet_amp_shelf draw (intermediates draw p)
    (intermediates draw { p with gain := gain }).amp
    (intermediates draw { p with gain := gain }).shelf h]
  simp only [intermediates, designAlpha, designW0]

end Sys2Proof.Machine
end

section
/-! SUPPORT. The draw of a recompute matters in the patterns of NaNs only (42_biquad_designer.md
R180, 40_numerics.md R105). -/

namespace Sys2Proof.Machine

/-- Six coefficients equal to six others up to NaN. -/
structure Coeffs.SameUpToNaN (c c' : Coeffs) : Prop where
  a0 : sameUpToNaN c.a0 c'.a0 = true
  b0 : sameUpToNaN c.b0 c'.b0 = true
  b1 : sameUpToNaN c.b1 c'.b1 = true
  b2 : sameUpToNaN c.b2 c'.b2 = true
  a1 : sameUpToNaN c.a1 c'.a1 = true
  a2 : sameUpToNaN c.a2 c'.a2 = true

/-- Five intermediates equal to five others up to NaN. -/
structure Intermediates.SameUpToNaN (m m' : Intermediates) : Prop where
  amp   : sameUpToNaN m.amp m'.amp = true
  cosw0 : sameUpToNaN m.cosw0 m'.cosw0 = true
  sinw0 : sameUpToNaN m.sinw0 m'.sinw0 = true
  alpha : sameUpToNaN m.alpha m'.alpha = true
  shelf : sameUpToNaN m.shelf m'.shelf = true

theorem intermediates_sameUpToNaN (d d' : Nat) (p : BqParams) :
    (intermediates d p).SameUpToNaN (intermediates d' p) := by
  have hamp : sameUpToNaN (designAmp d p) (designAmp d' p) = true :=
    sameUpToNaN_unitPow d d' (sameUpToNaN_refl ten) (sameUpToNaN_fdiv_draw d d' p.gain forty)
  have hw0 : sameUpToNaN (designW0 d p) (designW0 d' p) = true :=
    sameUpToNaN_fdiv d d' (sameUpToNaN_fmul_draw d d' twoPi p.f0) (sameUpToNaN_refl p.fs)
  have halpha : sameUpToNaN (designAlpha d p) (designAlpha d' p) = true :=
    sameUpToNaN_fdiv d d' (sameUpToNaN_unitSin d d' hw0) (sameUpToNaN_fmul_draw d d' two p.q)
  have hcos := sameUpToNaN_unitCos d d' hw0
  have hsin := sameUpToNaN_unitSin d d' hw0
  have hshelf := sameUpToNaN_fmul d d'
    (sameUpToNaN_fmul d d' (sameUpToNaN_refl two) (sameUpToNaN_fsqrt d d' hamp)) halpha
  constructor <;> simp only [intermediates, hamp, hcos, hsin, halpha, hshelf]

/-- Each coefficient is a term of the basic operations over the intermediates: its subterms are equal
up to NaN, from the intermediates on. The terms that two coefficients of the shelves share come
first. -/
theorem coeffSet_sameUpToNaN (d d' : Nat) (type : BitVec 4) {m m' : Intermediates}
    (h : m.SameUpToNaN m') : (coeffSet d type m).SameUpToNaN (coeffSet d' type m') := by
  obtain ⟨hamp, hcos, hsin, halpha, hshelf⟩ := h
  have htwoAmp := sameUpToNaN_fmul d d' (sameUpToNaN_refl two) hamp
  have hap := sameUpToNaN_fadd d d' hamp (sameUpToNaN_refl one)
  have ham := sameUpToNaN_fsub d d' hamp (sameUpToNaN_refl one)
  have hapCos := sameUpToNaN_fmul d d' hap hcos
  have hamCos := sameUpToNaN_fmul d d' ham hcos
  have hapSum := sameUpToNaN_fadd d d' hap hamCos
  have hapDiff := sameUpToNaN_fsub d d' hap hamCos
  have hamSum := sameUpToNaN_fadd d d' ham hapCos
  have hamDiff := sameUpToNaN_fsub d d' ham hapCos
  unfold coeffSet
  generalize type.toNat = k
  match k with
  | 0 | 1 | 2 | 3 | 4 | 5 | 6 | 7 | 8 | _ + 9 => constructor <;>
    simp [lowpassSet, highpassSet, bandpassSet, resonantSet, notchSet, allpassSet, peakingSet,
      lowShelfSet, highShelfSet, negTwoCos, sameUpToNaN_fadd, sameUpToNaN_fsub, sameUpToNaN_fmul,
      sameUpToNaN_fdiv, sameUpToNaN_fneg, *]

theorem design_sameUpToNaN (d d' : Nat) (p : BqParams) :
    (design d p).SameUpToNaN (design d' p) :=
  coeffSet_sameUpToNaN d d' p.type (intermediates_sameUpToNaN d d' p)

end Sys2Proof.Machine
end

section
/-! SUPPORT. Halving and doubling, and products, quotients and sums with 1.0 and zeros
(40_numerics.md R101, R103, 42_biquad_designer.md R181). -/

namespace Sys2Proof.Machine

variable {a b x : F64}

theorem signBit_one : signBit one = false := by decide
theorem isFinite_one : isFinite one = true := by decide
theorem isZero_one : isZero one = false := by decide
theorem signBit_two : signBit two = false := by decide
theorem isFinite_two : isFinite two = true := by decide
theorem isZero_two : isZero two = false := by decide

theorem units_two : units two = 2 * unitsPerOne := by decide +kernel

theorem pack_signBit_zero (h : isZero x = true) : pack (signBit x) 0 = x := by
  rw [← isZero_iff.mp h, pack_signBit_magBits]

theorem pack_signBit_infMag (h : isInf x = true) : pack (signBit x) infMag = x := by
  rw [← isInf_iff.mp h, pack_signBit_magBits]

/-! ### Halving and doubling -/

/-- From two shifts up, a step of `2^52` magnitude bits is a factor of two. -/
theorem magUnits_sub_two_pow {m : Nat} (h : 2 ^ 53 ≤ m) :
    magUnits m = magUnits (m - 2 ^ 52) * 2 := by
  obtain ⟨s, r, rfl, hr, hsig⟩ := exists_significand m
  obtain ⟨t, rfl⟩ : ∃ t, s = t + 1 := ⟨s - 1, by omega⟩
  have hnormal : IsSignificand t r := ⟨hr.le, .inr (by have := hsig.2; omega)⟩
  rw [show (t + 1) * 2 ^ 52 + r - 2 ^ 52 = t * 2 ^ 52 + r by omega, magUnits_significand hsig,
    magUnits_significand hnormal, Nat.pow_succ, Nat.mul_assoc]

/-- A half whose units are whole is exact: it is one shift less. -/
theorem fdiv_two_of_le_magBits (d : Nat) (hx : isFinite x = true) (h : 2 ^ 53 ≤ magBits x) :
    fdiv d x two = pack (signBit x) (magBits x - 2 ^ 52) := by
  have hfin := isFinite_iff.mp hx
  have hround : roundMag (units x * unitsPerOne) (2 * unitsPerOne) = magBits x - 2 ^ 52 := by
    rw [roundMag_mul_right _ _ unitsPerOne_pos, units_eq_magUnits, magUnits_sub_two_pow h,
      roundMag_magUnits _ (by decide) (by omega)]
  rw [fdiv_of_isFinite d hx isFinite_two isZero_two, units_two, hround,
    signBit_two, Bool.bne_false]

/-- Doubling undoes an exact halving (42_biquad_designer.md R181). -/
theorem fmul_two_fdiv_two_of_le_magBits (d : Nat) (hx : isFinite x = true)
    (h : 2 ^ 53 ≤ magBits x) : fmul d two (fdiv d x two) = x := by
  have hfin := isFinite_iff.mp hx
  have hbits : magBits x - 2 ^ 52 < 2 ^ 63 := (Nat.sub_le _ _).trans_lt (hfin.trans (by decide))
  have hmag := magBits_pack (signBit x) _ hbits
  rw [fdiv_two_of_le_magBits d hx h]
  have hhalf : isFinite (pack (signBit x) (magBits x - 2 ^ 52)) = true :=
    isFinite_iff.mpr (hmag.trans_lt (by omega))
  have hround : 2 * unitsPerOne * magUnits (magBits x - 2 ^ 52) = units x * unitsPerOne := by
    rw [units_eq_magUnits, magUnits_sub_two_pow h]
    ring
  rw [fmul_of_isFinite d isFinite_two hhalf, units_two, units_eq_magUnits, hmag, hround,
    pack_roundMag_units unitsPerOne_pos hx, signBit_pack _ _ hbits,
    signBit_two, Bool.false_bne, pack_signBit_magBits]

/-- A zero by a finite non-zero value is the zero of the product of the signs (40_numerics.md R101).
-/
theorem fdiv_of_isZero_left (d : Nat) (ha : isZero a = true) (hb : isFinite b = true)
    (hz : isZero b = false) : fdiv d a b = pack (signBit a != signBit b) 0 := by
  have hround : roundMag 0 (units b) = 0 := by
    simpa using roundMag_magUnits 0 (units_pos hz) (Nat.zero_le _)
  rw [fdiv_of_isFinite d (isFinite_of_isZero ha) hb hz, units_eq_zero_iff.mpr ha, Nat.zero_mul,
    hround]

theorem isZero_fdiv_of_isZero_left (d : Nat) (ha : isZero a = true) (hb : isFinite b = true)
    (hz : isZero b = false) : isZero (fdiv d a b) = true := by
  rw [fdiv_of_isZero_left d ha hb hz, isZero_iff, magBits_pack _ _ (by decide)]

theorem fmul_two_fdiv_two_of_isZero (d : Nat) (hx : isZero x = true) :
    fmul d two (fdiv d x two) = x := by
  rw [fdiv_of_isZero_left d hx isFinite_two isZero_two, signBit_two, Bool.bne_false,
    pack_signBit_zero hx, fmul_of_isZero_right d isFinite_two hx, signBit_two, Bool.false_bne,
    ← pack_zero, pack_signBit_zero hx]

theorem fmul_two_fdiv_two_of_isInf (d : Nat) (hx : isInf x = true) :
    fmul d two (fdiv d x two) = x := by
  have hn := isNaN_eq_false_of_isFinite isFinite_two
  have hi := isInf_eq_false_of_isFinite isFinite_two
  have hxn := isNaN_eq_false_of_isInf hx
  have hhalf : fdiv d x two = x := by
    simp [fdiv, hx, hxn, hn, hi, signBit_two, pack_signBit_infMag hx]
  rw [hhalf]
  simp [fmul, hx, hxn, hn, hi, isZero_two, signBit_two, pack_signBit_infMag hx]

/-- Doubling undoes halving on every class, but for the magnitudes whose half is rounded. -/
theorem sameUpToNaN_fmul_two_fdiv_two (d : Nat)
    (h : isFinite x = true → isZero x = false → 2 ^ 53 ≤ magBits x) :
    sameUpToNaN x (fmul d two (fdiv d x two)) = true := by
  cases hn : isNaN x with
  | true =>
    have hhalf := isNaN_fdiv_of_isNaN d x two (by rw [hn, Bool.true_or])
    exact sameUpToNaN_of_isNaN hn (isNaN_fmul_of_isNaN d two _ (by rw [hhalf, Bool.or_true]))
  | false =>
    refine sameUpToNaN_iff.mpr (.inl (Eq.symm ?_))
    cases hi : isInf x with
    | true => exact fmul_two_fdiv_two_of_isInf d hi
    | false =>
      have hx := isFinite_of_not_isNaN_of_not_isInf hn hi
      cases hz : isZero x with
      | true => exact fmul_two_fdiv_two_of_isZero d hz
      | false => exact fmul_two_fdiv_two_of_le_magBits d hx (h hx hz)

/-! ### Sums with 1.0 are zero or far from the subnormals -/

/-- Rounding keeps a lower bound that is a magnitude: it is nearer than what is below it. -/
theorem le_roundMag {k num den : Nat} (hden : 0 < den) (hk : k ≤ infMag)
    (h : magUnits k * den ≤ num) : k ≤ roundMag num den := by
  obtain ⟨m, hround, hnear⟩ := exists_nearest_roundMag num hden
  rw [hround]
  refine le_min (Nat.le_of_not_lt fun hlt => ?_) hk
  exact absurd (hnear k).1 (distance_lt_of_lt hden (magUnits_strictMono hlt) h).not_ge

/-- A non-zero exact sum of 1.0 and a finite value is at least `2^53` units: the value is a multiple
of that, or too small to cancel 1.0. -/
theorem le_natAbs_one_add (h : signedUnits one + signedUnits b ≠ 0) :
    2 ^ 53 ≤ (signedUnits one + signedUnits b).natAbs := by
  have hone : signedUnits one = (unitsPerOne : Int) := by
    rw [signedUnits, signBit_one, if_neg Bool.false_ne_true, units_one]
  have habs := natAbs_signedUnits b
  rw [hone] at h ⊢
  rcases two_pow_dvd_magUnits_or_lt 53 (magBits b) with hdvd | hlt
  · have hunit : ((2 ^ 53 : Nat) : Int) ∣ (unitsPerOne : Int) :=
      Int.natCast_dvd_natCast.mpr (pow_dvd_pow 2 (by decide : 53 ≤ 1074))
    have hvalue : ((2 ^ 53 : Nat) : Int) ∣ signedUnits b := by
      rw [Int.natCast_dvd, habs]
      exact hdvd
    exact Nat.le_of_dvd (Int.natAbs_pos.mpr h) (Int.natCast_dvd.mp (hunit.add hvalue))
  · have hunit : 2 ^ 106 ≤ unitsPerOne := by decide +kernel
    rw [← units_eq_magUnits] at hlt
    omega

/-- A finite sum with a finite value has a finite other operand. -/
theorem isFinite_of_isFinite_fadd (d : Nat) (ha : isFinite a = true)
    (h : isFinite (fadd d a b) = true) : isFinite b = true := by
  have hsum := isNaN_eq_false_of_isFinite h
  cases hn : isNaN b with
  | true =>
    rw [isNaN_fadd_of_isNaN d a b (by rw [hn, Bool.or_true])] at hsum
    cases hsum
  | false =>
    cases hi : isInf b with
    | true =>
      have heq : fadd d a b = b := by
        simp [fadd, isNaN_eq_false_of_isFinite ha, isInf_eq_false_of_isFinite ha, hn, hi]
      rwa [heq] at h
    | false => exact isFinite_of_not_isNaN_of_not_isInf hn hi

/-- A non-zero finite sum with 1.0 is large enough to be halved exactly. -/
theorem le_magBits_fadd_one (d : Nat) (hf : isFinite (fadd d one b) = true)
    (hz : isZero (fadd d one b) = false) : 2 ^ 53 ≤ magBits (fadd d one b) := by
  rw [fadd_of_isFinite d isFinite_one (isFinite_of_isFinite_fadd d isFinite_one hf)] at hz ⊢
  split at hz
  next =>
    rw [isZero_iff.mpr (magBits_pack _ 0 (by decide))] at hz
    cases hz
  next hne =>
    rw [if_neg hne, magBits_pack _ _ ((roundMag_le _ _).trans_lt (by decide))]
    exact le_roundMag Nat.one_pos (by decide) ((Nat.mul_one _).trans_le (le_natAbs_one_add hne))

/-! ### Products with and quotients by 1.0, sums with a zero -/

theorem fmul_one_left (d : Nat) (hx : isFinite x = true) : fmul d one x = x := by
  rw [fmul_of_isFinite d isFinite_one hx, units_one, Nat.mul_comm,
    pack_roundMag_units unitsPerOne_pos hx, signBit_one, Bool.false_bne, pack_signBit_magBits]

theorem fmul_one_right (d : Nat) (hx : isNaN x = false) : fmul d x one = x := by
  cases hi : isInf x with
  | true =>
    simp [fmul, hx, hi, signBit_one, isZero_one, isNaN_eq_false_of_isFinite isFinite_one,
      pack_signBit_infMag hi]
  | false =>
    have hfin := isFinite_of_not_isNaN_of_not_isInf hx hi
    rw [fmul_of_isFinite d hfin isFinite_one, units_one, pack_roundMag_units unitsPerOne_pos hfin,
      signBit_one, Bool.bne_false, pack_signBit_magBits]

theorem fdiv_one_right (d : Nat) (hx : isNaN x = false) : fdiv d x one = x := by
  cases hi : isInf x with
  | true =>
    simp [fdiv, hx, hi, signBit_one, isNaN_eq_false_of_isFinite isFinite_one,
      isInf_eq_false_of_isFinite isFinite_one, pack_signBit_infMag hi]
  | false =>
    have hfin := isFinite_of_not_isNaN_of_not_isInf hx hi
    rw [fdiv_of_isFinite d hfin isFinite_one isZero_one, units_one,
      pack_roundMag_units unitsPerOne_pos hfin, signBit_one, Bool.bne_false, pack_signBit_magBits]

theorem sameUpToNaN_fmul_one_fdiv_one (d : Nat) (x : F64) :
    sameUpToNaN (fmul d x one) (fdiv d x one) = true := by
  cases hn : isNaN x with
  | true =>
    have hor : (isNaN x || isNaN one) = true := by rw [hn, Bool.true_or]
    exact sameUpToNaN_of_isNaN (isNaN_fmul_of_isNaN d x one hor) (isNaN_fdiv_of_isNaN d x one hor)
  | false => rw [fmul_one_right d hn, fdiv_one_right d hn, sameUpToNaN_refl]

theorem isZero_fmul_of_isZero_left (d : Nat) (ha : isZero a = true) (hb : isFinite b = true) :
    isZero (fmul d a b) = true := by
  rw [fmul_of_isFinite d (isFinite_of_isZero ha) hb, units_eq_zero_iff.mpr ha, Nat.zero_mul,
    show roundMag 0 unitsPerOne = 0 by decide +kernel, isZero_iff, magBits_pack _ _ (by decide)]

/-- `r` is finite and has the value of `x`; the sign of a zero is left open. -/
def HasValueOf (x r : F64) : Prop := isFinite r = true ∧ signedUnits r = signedUnits x

/-- A zero added keeps the value. -/
theorem HasValueOf.fadd_of_isZero (d : Nat) (h : HasValueOf x a) (hb : isZero b = true) :
    HasValueOf x (fadd d a b) := by
  obtain ⟨hfin, hval⟩ := h
  cases hz : isZero a with
  | false =>
    rw [fadd_of_isZero_right d hfin hz hb]
    exact ⟨hfin, hval⟩
  | true =>
    have ha := signedUnits_of_isZero hz
    have hsum : isZero (fadd d a b) = true := by
      rw [fadd_of_sum_eq_zero d hfin (isFinite_of_isZero hb)
        (by rw [ha, signedUnits_of_isZero hb, Int.add_zero])]
      split
      · exact isZero_negZero
      · exact isZero_posZero
    exact ⟨isFinite_of_isZero hsum, by rw [signedUnits_of_isZero hsum, ← hval, ha]⟩

/-- A zero subtracted keeps the value. -/
theorem HasValueOf.fsub_of_isZero (d : Nat) (h : HasValueOf x a) (hb : isZero b = true) :
    HasValueOf x (fsub d a b) := by
  have hflip : isZero (flipSign b) = true := by rwa [isZero_iff, magBits_flipSign, ← isZero_iff]
  exact h.fadd_of_isZero d hflip

end Sys2Proof.Machine
end

section
/-! SUPPORT. The statements about the designer (42_biquad_designer.md). -/

namespace Sys2Proof.Machine

/-- Settles O35: the operand words announced are there, so each parameter is its word or its
default. -/
theorem setStoresOperandsOrDefaults : Obligations.SetStoresOperandsOrDefaults := by
  unfold Obligations.SetStoresOperandsOrDefaults
  intro s type pm ops hw
  have hexec : exec (.bqSet type pm ops) s = .next ((s.withParams
      (setParams s.draws s.par (announcedArgs type pm ops))).respond .ok []) := by
    simp only [exec, execBqSet, setArgs_eq_of_wf hw, answer_eq]
  simp only [Instr.wf, presentCount, Bool.and_eq_true, beq_iff_eq] at hw
  obtain ⟨-, hcount⟩ := hw
  refine ⟨setParams s.draws s.par (announcedArgs type pm ops), ?type, rfl,
    some_getD_ite fun hp => ?f0, some_getD_ite fun hp => ?q, some_getD_ite fun hp => ?gain, hexec⟩
  case type => simp only [setParams, announcedArgs]; cases pm[0] <;> rfl
  all_goals
    rw [hp, Bool.toNat_true] at hcount
    rw [isSome_getElem?]
    omega

/-- Settles O37: the row of the type code, from the intermediates. -/
theorem recomputeWritesTheRowOfTheType : Obligations.RecomputeWritesTheRowOfTheType := by
  unfold Obligations.RecomputeWritesTheRowOfTheType
  intro s d A w0 c sn al sh ap am row
  have hrow : row s.par.type.toNat = design s.draws s.par := by
    simp only [row, design, coeffSet_eq_ite, lowpassSet, highpassSet, bandpassSet, resonantSet,
      notchSet, allpassSet, peakingSet, lowShelfSet, highShelfSet, passThroughSet, negTwoCos,
      intermediates, designAmp, designW0, designAlpha, ten, forty]
    rfl
  rw [hrow]
  rfl

/-- Settles O38: the second recompute has the same parameters and another draw. -/
theorem recomputeIsIdempotentUpToNaN : Obligations.RecomputeIsIdempotentUpToNaN := by
  unfold Obligations.RecomputeIsIdempotentUpToNaN
  intro s
  obtain ⟨ha0, hb0, hb1, hb2, ha1, ha2⟩ := design_sameUpToNaN s.draws (s.draws + 1) s.par
  exact ⟨_, _, rfl, rfl, rfl, ha0, hb0, hb1, hb2, ha1, ha2⟩

/-- Settles O39: a difference from 1.0 is zero, special, or large enough to be halved exactly. -/
theorem doublingUndoesHalving : Obligations.DoublingUndoesHalving := by
  unfold Obligations.DoublingUndoesHalving
  refine ⟨fun d x => fmul_two_fdiv_two_of_le_magBits d, fun d p hp => ?_⟩
  have hrow : design d p = lowpassSet d (intermediates d p) := by rw [design, hp]; rfl
  rw [hrow]
  refine ⟨?_, rfl⟩
  simp only [lowpassSet]
  exact sameUpToNaN_fmul_two_fdiv_two d (le_magBits_fadd_one d)

/-- Settles O40: the amplitude is 1.0, and a product with it and a quotient by it are the same. -/
theorem peakingAtZeroGainIsUnity : Obligations.PeakingAtZeroGainIsUnity := by
  unfold Obligations.PeakingAtZeroGainIsUnity
  intro d p hp hgain
  have hrow : design d p = peakingSet d (intermediates d p) := by rw [design, hp]; rfl
  have hamp : (intermediates d p).amp = one :=
    unitPow_ten_of_isZero d (isZero_fdiv_of_isZero_left d hgain (by decide) (by decide))
  rw [hrow]
  have hmul := sameUpToNaN_fmul_one_fdiv_one d (intermediates d p).alpha
  refine ⟨?_, rfl, ?_⟩ <;> simp only [peakingSet, hamp]
  · exact sameUpToNaN_fadd d d (sameUpToNaN_refl one) hmul
  · exact sameUpToNaN_fsub d d (sameUpToNaN_refl one) hmul

/-- Settles O41: by the rows of the type codes. -/
theorem gainAffectsOnlyPeakingAndShelves : Obligations.GainAffectsOnlyPeakingAndShelves := by
  unfold Obligations.GainAffectsOnlyPeakingAndShelves
  refine fun d p gain type => ⟨design_gain d p gain, fun hp htype => ?_⟩
  obtain ⟨ha0, ha1, ha2⟩ := coeffSet_denominator d (intermediates d p) hp
  obtain ⟨ha0', ha1', ha2'⟩ := coeffSet_denominator d (intermediates d p) htype
  exact ⟨ha0'.trans ha0.symm, ha1'.trans ha1.symm, ha2'.trans ha2.symm⟩

/-- Settles O49: the ratios are 1.0 and four zeros, and sums with zeros keep the value. -/
theorem passThroughReturnsFiniteSamples : Obligations.PassThroughReturnsFiniteSamples := by
  unfold Obligations.PassThroughReturnsFiniteSamples
  intro d d' p h x htype hx hx1 hx2 hy1 hy2
  have hzero {v : F64} (hv : isFinite v = true) :
      isZero (fmul d' (fdiv d' posZero one) v) = true :=
    isZero_fmul_of_isZero_left d'
      (isZero_fdiv_of_isZero_left d' isZero_posZero isFinite_one isZero_one) hv
  have hsample : HasValueOf x (fmul d' (fdiv d' one one) x) := by
    rw [fdiv_one_right d' (isNaN_eq_false_of_isFinite isFinite_one), fmul_one_left d' hx]
    exact ⟨hx, rfl⟩
  rw [design, coeffSet_of_nine_le d _ htype]
  have hsum := (hsample.fadd_of_isZero d' (hzero hx1)).fadd_of_isZero d' (hzero hx2)
  exact (hsum.fsub_of_isZero d' (hzero hy1)).fsub_of_isZero d' (hzero hy2)

/-- Settles O36: each setter is one store and the recompute. -/
theorem settersStoreAndRecompute : Obligations.SettersStoreAndRecompute := by
  unfold Obligations.SettersStoreAndRecompute
  rintro s i p (⟨_, rfl, rfl⟩ | ⟨_, rfl, rfl⟩ | ⟨_, rfl, rfl⟩ | ⟨_, rfl, rfl⟩ | ⟨_, rfl, rfl⟩ |
    ⟨_, rfl, rfl⟩)
  all_goals rfl

/-- Settles O42: the operand words are stored as they are. -/
theorem coeffsInjectsTheOperands : Obligations.CoeffsInjectsTheOperands := by
  unfold Obligations.CoeffsInjectsTheOperands
  exact fun s a0 b0 b1 b2 a1 a2 => answer_eq [] _

end Sys2Proof.Machine
end

section
/-! SUPPORT. The recursion's output as a combination of five products: a NaN product makes it a NaN,
and over zero values it is a zero exactly when the ratios are finite (43_biquad_processor.md R201,
R205, R207). -/

namespace Sys2Proof.Machine

variable {a b x : F64} {d d' : Nat} {c : Coeffs} {h : History}

/-! ### The classes of sums and products -/

/-- Equal up to a NaN's pattern is of the same class. -/
theorem isFinite_of_sameUpToNaN (hab : sameUpToNaN a b = true) (ha : isFinite a = true) :
    isFinite b = true := by
  obtain rfl | ⟨hn, -⟩ := sameUpToNaN_iff.mp hab
  · exact ha
  · exact absurd (isNaN_eq_false_of_isFinite ha) (by simp [hn])

/-- An infinity or a NaN times a zero is a NaN (40_numerics.md R103, R105). -/
theorem isNaN_fmul_of_not_isFinite (d : Nat) (ha : isFinite a = false) (hb : isZero b = true) :
    isNaN (fmul d a b) = true := by
  cases hn : isNaN a with
  | true => exact isNaN_fmul_of_isNaN d a b (by rw [hn, Bool.true_or])
  | false =>
    cases hi : isInf a with
    | true => exact isNaN_fmul_of_isInf_of_isZero d hi hb
    | false => exact absurd (isFinite_of_not_isNaN_of_not_isInf hn hi) (by simp [ha])

theorem isZero_fmul_of_isZero_right (d : Nat) (ha : isFinite a = true) (hb : isZero b = true) :
    isZero (fmul d a b) = true := by
  rw [fmul_of_isZero_right d ha hb]
  split
  · exact isZero_negZero
  · exact isZero_posZero

/-- The values of +0 are the two zeros. -/
theorem hasValueOf_posZero_iff : HasValueOf posZero a ↔ isZero a = true := by
  refine ⟨fun ⟨_, hval⟩ => ?_, fun hz => ⟨isFinite_of_isZero hz, ?_⟩⟩
  · rw [← units_eq_zero_iff, ← natAbs_signedUnits, hval, signedUnits_of_isZero isZero_posZero,
      Int.natAbs_zero]
  · rw [signedUnits_of_isZero hz, signedUnits_of_isZero isZero_posZero]

/-! ### The five products -/

/-- The factors of the recursion's five products: each ratio with the value it multiplies
(43_biquad_processor.md R201). -/
def tickFactors (d : Nat) (c : Coeffs) (h : History) (x : F64) : List (F64 × F64) :=
  [(fdiv d c.b0 c.a0, x), (fdiv d c.b1 c.a0, h.x1), (fdiv d c.b2 c.a0, h.x2),
    (fdiv d c.a1 c.a0, h.y1), (fdiv d c.a2 c.a0, h.y2)]

/-- A NaN product reaches the output through every sum and difference after it. -/
theorem isNaN_tickOutput_of_mem {p : F64 × F64} (hp : p ∈ tickFactors d c h x)
    (hn : isNaN (fmul d p.1 p.2) = true) : isNaN (tickOutput d c h x) = true := by
  have hadd {a b : F64} (hor : isNaN a = true ∨ isNaN b = true) : isNaN (fadd d a b) = true :=
    isNaN_fadd_of_isNaN d a b (by simpa using hor)
  have hsub {a b : F64} (hor : isNaN a = true ∨ isNaN b = true) : isNaN (fsub d a b) = true :=
    isNaN_fsub_of_isNaN d a b (by simpa using hor)
  simp only [tickFactors, List.mem_cons, List.not_mem_nil, or_false] at hp
  obtain rfl | rfl | rfl | rfl | rfl := hp
  · exact hsub (.inl (hsub (.inl (hadd (.inl (hadd (.inl hn)))))))
  · exact hsub (.inl (hsub (.inl (hadd (.inl (hadd (.inr hn)))))))
  · exact hsub (.inl (hsub (.inl (hadd (.inr hn)))))
  · exact hsub (.inl (hsub (.inr hn)))
  · exact hsub (.inr hn)

/-- Sums and differences of zeros are zeros. -/
theorem isZero_tickOutput (hz : ∀ p ∈ tickFactors d c h x, isZero (fmul d p.1 p.2) = true) :
    isZero (tickOutput d c h x) = true := by
  simp only [tickFactors, List.forall_mem_cons] at hz
  obtain ⟨h0, h1, h2, h3, h4, -⟩ := hz
  have hsum := ((hasValueOf_posZero_iff.mpr h0).fadd_of_isZero d h1).fadd_of_isZero d h2
  exact hasValueOf_posZero_iff.mp ((hsum.fsub_of_isZero d h3).fsub_of_isZero d h4)

/-! ### Zero values -/

/-- The four memory scalars are zeros, of either sign. -/
def History.AllZero (h : History) : Prop :=
  isZero h.x1 = true ∧ isZero h.x2 = true ∧ isZero h.y1 = true ∧ isZero h.y2 = true

theorem History.zero_allZero : History.zero.AllZero :=
  ⟨isZero_posZero, isZero_posZero, isZero_posZero, isZero_posZero⟩

theorem History.AllZero.shift (hh : h.AllZero) {y : F64} (hx : isZero x = true)
    (hy : isZero y = true) : (h.shift x y).AllZero := by
  obtain ⟨hx1, -, hy1, -⟩ := hh
  exact ⟨hx, hx1, hy, hy1⟩

theorem isZero_snd_of_mem_tickFactors (hh : h.AllZero) (hx : isZero x = true) :
    ∀ p ∈ tickFactors d c h x, isZero p.2 = true := by
  obtain ⟨hx1, hx2, hy1, hy2⟩ := hh
  simp [tickFactors, hx, hx1, hx2, hy1, hy2]

theorem finiteRatios_iff (h : History) (x : F64) :
    FiniteRatios d c ↔ ∀ p ∈ tickFactors d c h x, isFinite p.1 = true := by
  simp [FiniteRatios, tickFactors]

/-- Whether the ratios are finite does not depend on the draw. -/
theorem FiniteRatios.draw (hr : FiniteRatios d c) : FiniteRatios d' c := by
  have hdraw (v : F64) : isFinite (fdiv d v c.a0) = true → isFinite (fdiv d' v c.a0) = true :=
    isFinite_of_sameUpToNaN (sameUpToNaN_fdiv_draw d d' v c.a0)
  exact hr.imp (hdraw _) (.imp (hdraw _) (.imp (hdraw _) (.imp (hdraw _) (hdraw _))))

/-- Over zeros, a ratio that is not finite makes its product and so the output a NaN. -/
theorem isZero_tickOutput_iff (hh : h.AllZero) (hx : isZero x = true) :
    isZero (tickOutput d c h x) = true ↔ FiniteRatios d c := by
  have hzero : ∀ p ∈ tickFactors d c h x, isZero p.2 = true := isZero_snd_of_mem_tickFactors hh hx
  rw [finiteRatios_iff h x]
  constructor
  · intro hout p hp
    by_contra hinf
    have hnan := isNaN_fmul_of_not_isFinite d (Bool.eq_false_iff.mpr hinf) (hzero p hp)
    have hfin := isNaN_eq_false_of_isFinite (isFinite_of_isZero hout)
    exact absurd (isNaN_tickOutput_of_mem hp hnan) (by simp [hfin])
  · exact fun hfin =>
      isZero_tickOutput fun p hp => isZero_fmul_of_isZero_right d (hfin p hp) (hzero p hp)

end Sys2Proof.Machine
end

section
/-! SUPPORT. The recursion over a buffer: it is a tick for each sample, it composes over
concatenation, and zeros and NaNs persist along it (43_biquad_processor.md R203, R205, R207). -/

namespace Sys2Proof.Machine

variable {d : Nat} {c : Coeffs} {h : History} {xs : List F64}

/-! ### The commands -/

theorem exec_bqTick (s : State) (x : F64) :
    exec (.bqTick x) s =
      .next ((s.ticked x).respond .ok [tickOutput s.draws s.coef s.hist x]) :=
  answer_eq ..

theorem exec_bqProcess (s : State) (xs : List F64) :
    exec (.bqProcess xs) s =
      .next ((s.processed xs).respond .ok (tickOutputs s.draws s.coef s.hist xs)) :=
  answer_eq ..

/-! ### Concatenation -/

theorem tickOutputs_append (d : Nat) (c : Coeffs) (h : History) (xs ys : List F64) :
    tickOutputs d c h (xs ++ ys) =
      tickOutputs d c h xs ++ tickOutputs (d + xs.length) c (tickHistories d c h xs) ys := by
  induction xs generalizing d h with
  | nil => rfl
  | cons x xs ih =>
    simp only [List.cons_append, tickOutputs, tickHistories, List.length_cons, ih, Nat.add_assoc,
      Nat.add_comm 1]

theorem tickHistories_append (d : Nat) (c : Coeffs) (h : History) (xs ys : List F64) :
    tickHistories d c h (xs ++ ys) =
      tickHistories (d + xs.length) c (tickHistories d c h xs) ys := by
  induction xs generalizing d h with
  | nil => rfl
  | cons x xs ih =>
    simp only [List.cons_append, tickHistories, List.length_cons, ih, Nat.add_assoc, Nat.add_comm 1]

theorem State.processed_append (s : State) (xs ys : List F64) :
    s.processed (xs ++ ys) = (s.processed xs).processed ys := by
  simp [State.processed, State.drawn, tickHistories_append, Nat.add_assoc]

/-! ### Ticks -/

/-- A tick is a buffer of one sample. -/
theorem State.processed_cons (s : State) (x : F64) (xs : List F64) :
    s.processed (x :: xs) = (s.ticked x).processed xs :=
  s.processed_append [x] xs

/-- A tick for each sample of a buffer answers the buffer's outputs and leaves, the responses apart,
the state processing it leaves. -/
theorem ticksTo_processed (s : State) (xs : List F64) :
    ∃ rs, TicksTo s xs (tickOutputs s.draws s.coef s.hist xs)
      { s.processed xs with responses := rs } := by
  induction xs generalizing s with
  | nil => exact ⟨s.responses, .nil s⟩
  | cons x xs ih =>
    obtain ⟨rs, hrest⟩ := ih ((s.ticked x).respond .ok [tickOutput s.draws s.coef s.hist x])
    rw [State.processed_cons]
    exact ⟨rs, .cons _ _ _ _ _ _ _ (exec_bqTick s x) rfl hrest⟩

/-! ### Zeros and NaNs -/

/-- Zeros in, zeros out, and the history stays zero. -/
theorem isZero_of_mem_tickOutputs (hr : FiniteRatios d c) (hh : h.AllZero)
    (hxs : ∀ x ∈ xs, isZero x = true) : ∀ y ∈ tickOutputs d c h xs, isZero y = true := by
  induction xs generalizing d h with
  | nil => simp [tickOutputs]
  | cons x xs ih =>
    obtain ⟨hx, hxs⟩ := List.forall_mem_cons.mp hxs
    have hy : isZero (tickOutput d c h x) = true := (isZero_tickOutput_iff hh hx).mpr hr
    exact List.forall_mem_cons.mpr ⟨hy, ih hr.draw (hh.shift hx hy) hxs⟩

/-- A NaN among the last two outputs is a factor of the next one. -/
theorem isNaN_tickOutput (hn : isNaN h.y1 = true ∨ isNaN h.y2 = true) (x : F64) :
    isNaN (tickOutput d c h x) = true := by
  have hmul {a b : F64} (hb : isNaN b = true) : isNaN (fmul d a b) = true :=
    isNaN_fmul_of_isNaN d a b (by rw [hb, Bool.or_true])
  obtain hy1 | hy2 := hn
  · exact isNaN_tickOutput_of_mem (p := (fdiv d c.a1 c.a0, h.y1)) (by simp [tickFactors]) (hmul hy1)
  · exact isNaN_tickOutput_of_mem (p := (fdiv d c.a2 c.a0, h.y2)) (by simp [tickFactors]) (hmul hy2)

/-- A NaN output is the last output of the next tick, so it persists. -/
theorem isNaN_of_mem_tickOutputs (hn : isNaN h.y1 = true ∨ isNaN h.y2 = true) :
    ∀ y ∈ tickOutputs d c h xs, isNaN y = true := by
  induction xs generalizing d h with
  | nil => simp [tickOutputs]
  | cons x xs ih =>
    have hy : isNaN (tickOutput d c h x) = true := isNaN_tickOutput hn x
    exact List.forall_mem_cons.mpr ⟨hy, ih (h := tickHistory d c h x) (.inl hy)⟩

end Sys2Proof.Machine
end

section
/-! SUPPORT. The statements about the processor (43_biquad_processor.md). -/

namespace Sys2Proof.Machine

/-- Settles O44: by induction on the buffer, the first sample being a tick. -/
theorem processIsATickPerSample : Obligations.ProcessIsATickPerSample := by
  unfold Obligations.ProcessIsATickPerSample
  intro s xs
  obtain ⟨rs, hticks⟩ := ticksTo_processed s xs
  exact ⟨_, _, hticks, tickOutputs_length .., exec_bqProcess s xs⟩

/-- Settles O45: outputs and history of a concatenation are those of its parts in turn. -/
theorem processOfConcatenation : Obligations.ProcessOfConcatenation := by
  unfold Obligations.ProcessOfConcatenation
  intro s xs ys
  refine ⟨_, _, _, _, exec_bqProcess s xs, exec_bqProcess _ ys, rfl, rfl, ?_⟩
  rw [exec_bqProcess, State.processed_append, tickOutputs_append]
  rfl

/-- Settles O47: over the cleared history the first output already tells whether the ratios are
finite, and finite ratios keep the history zero. -/
theorem clearedFilterAnswersZeros : Obligations.ClearedFilterAnswersZeros := by
  unfold Obligations.ClearedFilterAnswersZeros
  intro s
  obtain ⟨rs, hticks⟩ := ticksTo_processed (State.respond { s with hist := History.zero } .ok [])
    [posZero, posZero, posZero, posZero]
  refine ⟨_, _, _, answer_eq .., hticks, fun hz => ?_,
    fun hr => isZero_of_mem_tickOutputs hr History.zero_allZero (by simp [isZero_posZero])⟩
  exact (isZero_tickOutput_iff History.zero_allZero isZero_posZero).mp (hz _ List.mem_cons_self)

/-- Settles O48: a NaN in `Y1` or `Y2` makes the output a NaN, which is then in `Y1`. -/
theorem naNOutputsAreSticky : Obligations.NaNOutputsAreSticky := by
  unfold Obligations.NaNOutputsAreSticky
  exact fun s xs hn => ⟨_, _, exec_bqProcess s xs, rfl, tickOutputs_length ..,
    isNaN_of_mem_tickOutputs hn⟩

/-- Settles O43: the output and the shift of the history are R201's. -/
theorem tickAnswersTheRecursion : Obligations.TickAnswersTheRecursion := by
  unfold Obligations.TickAnswersTheRecursion
  exact exec_bqTick

/-- Settles O46: the history alone is written. -/
theorem clearZeroesTheHistory : Obligations.ClearZeroesTheHistory := by
  unfold Obligations.ClearZeroesTheHistory
  exact fun s => answer_eq [] { s with hist := History.zero }

end Sys2Proof.Machine
end

section
/-! SUPPORT. What `RD` answers: the element or the register where there is one, else `E_INDEX`
(44_access.md R221, R222). -/

namespace Sys2Proof.Machine

variable {s : State} {space : BitVec 4} {idx : BitVec 20} {v : BitVec 64}

/-- `E_INDEX` is not latched (60_exceptions.md R231). -/
theorem raise_index_eq (s : State) : raise .index s = .next (s.respond .index []) := by
  rw [raise_eq, s.latch_of_not_latched .index rfl]

/-! ### The arrays -/

/-- The logical lengths grouped as 44_access.md R221 groups them. -/
theorem spaceLen_eq_ite (space : BitVec 4) (n : Nat) :
    spaceLen space n =
      if space = 2 ∨ space = 3 then n / 2
      else if space = 4 then (if isPow2 n then n else 0)
      else if space.toNat ≤ 6 then n else 0 := by
  simp only [← BitVec.toNat_inj, spaceLen, revLen]
  match space.toNat with
  | 0 | 1 | 2 | 3 | 4 | 5 | 6 | _ + 7 => simp

/-- A `REV` entry that fits in a word is read as it is, though the read zero-extends it. -/
theorem Memory.rev_getElem?_of_read {m : Memory} {i : Nat} (hrev : ∀ x ∈ m.rev, x < 2 ^ 64)
    (h : m.read 4 i = some v) : m.rev[i]? = some v.toNat := by
  obtain ⟨x, hx, rfl⟩ := Option.map_eq_some_iff.mp (h : (m.rev[i]?).map (BitVec.ofNat 64) = some v)
  rw [hx, BitVec.toNat_ofNat, Nat.mod_eq_of_lt (hrev x (List.mem_of_getElem? hx))]

theorem exec_rd_of_read (hs : space ≠ 15) (hi : idx.toNat < spaceLen space s.len)
    (hv : s.mem.read space idx.toNat = some v) :
    exec (.rd space idx) s = .next (s.respond .ok [v]) := by
  simp only [exec, execRd, if_neg hs, readSpace, if_neg (Nat.not_le.mpr hi), hv, answer_eq]

theorem exec_rd_of_spaceLen_le (hs : space ≠ 15) (hi : spaceLen space s.len ≤ idx.toNat) :
    exec (.rd space idx) s = .next (s.respond .index []) := by
  simp only [exec, execRd, if_neg hs, readSpace, if_pos hi, raise_index_eq]

/-! ### The registers -/

/-- Every row of the register map is read at its number. -/
theorem State.csr_of_mem_csrMap (s : State) :
    ∀ row ∈ csrMap s, s.csr row.1.toNat = some row.2 := by
  simp [csrMap, State.csr]

/-- Every number at which a register is read has a row in the register map. -/
theorem State.mem_csrMap_of_csr {num : Nat} (h : s.csr num = some v) :
    (BitVec.ofNat 20 num, v) ∈ csrMap s := by
  unfold State.csr at h
  split at h <;> cases h <;> simp [csrMap]

theorem State.csr_eq_some_iff : s.csr idx.toNat = some v ↔ (idx, v) ∈ csrMap s := by
  refine ⟨fun h => ?_, s.csr_of_mem_csrMap (idx, v)⟩
  simpa using State.mem_csrMap_of_csr h

theorem exec_rd_csr_of_some (h : s.csr idx.toNat = some v) :
    exec (.rd 15 idx) s = .next (s.respond .ok [v]) := by
  simp only [exec, execRd, if_true, readCsr, h, answer_eq]

theorem exec_rd_csr_of_none (h : s.csr idx.toNat = none) :
    exec (.rd 15 idx) s = .next (s.respond .index []) := by
  simp only [exec, execRd, if_true, readCsr, h, raise_index_eq]

end Sys2Proof.Machine
end

section
/-! SUPPORT. The statements about the read command (44_access.md). -/

namespace Sys2Proof.Machine

/-- Settles O33: below the logical length the canonical form has the element, and a `REV` entry,
being an index, fits in the word it is zero-extended to. -/
theorem readAnswersElementsOrIndexFault : Obligations.ReadAnswersElementsOrIndexFault := by
  unfold Obligations.ReadAnswersElementsOrIndexFault
  intro s space idx hmem hs
  rw [← spaceLen_eq_ite]
  refine ⟨fun hi => ?_, exec_rd_of_spaceLen_le hs⟩
  obtain ⟨v, hv⟩ := Option.isSome_iff_exists.mp (s.mem.read_isSome _ space _ hmem.wf hi)
  have hrev : ∀ x ∈ s.mem.rev, x < 2 ^ 64 := fun x hx =>
    (revTable_lt _ x (hmem.rev ▸ hx)).trans (s.len_lt.trans (by decide))
  refine ⟨v, exec_rd_of_read hs hi hv, ?_, ?_, ?_, ?_, fun h => ?rev, ?_, ?_⟩
  case rev => exact Memory.rev_getElem?_of_read hrev (h ▸ hv)
  all_goals (rintro rfl; exact hv)

/-- Settles O34: the register map is the graph of the read, so a number outside it reads nothing. -/
theorem readAnswersRegistersOrIndexFault : Obligations.ReadAnswersRegistersOrIndexFault := by
  unfold Obligations.ReadAnswersRegistersOrIndexFault
  intro s idx
  refine ⟨fun v hv => exec_rd_csr_of_some (State.csr_eq_some_iff.mpr hv), fun hno => ?_⟩
  exact exec_rd_csr_of_none <| Option.eq_none_iff_forall_ne_some.mpr fun v hv =>
    hno v (State.csr_eq_some_iff.mp hv)

end Sys2Proof.Machine
end

section
/-! SUPPORT. What a packet of each opcode needs to decode (30_encoding.md R83, R85), and the fields of
its word as numbers. -/

namespace Sys2Proof

/-! ### The operand counts -/

theorem Op.ofCode_eq_some_iff {b : BitVec 8} {op : Op} : Op.ofCode b = some op ↔ b = op.code :=
  ⟨fun h => (Op.code_eq_of_ofCode h).symm, fun h => h ▸ op.ofCode_code⟩

/-- The operand count an opcode fixes (30_encoding.md R83): none for the buffer commands, and for
`BQ.SET`, whose count is in its word. -/
def Op.fixedCount : Op → Option Nat
  | .rd | .fftBandf | .bqSetType | .bqRecompute | .bqClear => some 0
  | .fftCfg | .bqSetFreq | .bqSetQ | .bqSetGain | .bqSetBw | .bqSetFs | .bqTick => some 1
  | .bqCoeffs => some 6
  | .fftFwd | .fftInv | .bqProcess | .bqSet => none

/-- A command of an opcode with a fixed count has that many operand words. -/
theorem Instr.operands_length {i : Instr} {k : Nat} (h : i.op.fixedCount = some k) :
    i.operands.length = k := by
  cases i <;> cases h <;> rfl

/-- An opcode other than `BQ.SET` builds a command exactly where the operand count is the fixed one,
if there is one. -/
theorem Op.exists_build_iff {op : Op} (hop : op ≠ .bqSet) (f : BitVec 24) (ops : List F64) :
    (∃ i, op.build f ops = some i) ↔ ∀ k, op.fixedCount = some k → ops.length = k := by
  constructor
  · rintro ⟨i, hi⟩ k hk
    obtain ⟨rfl, rfl, -⟩ := Op.build_eq_some hi
    exact Instr.operands_length hk
  · intro h
    cases op with
    | bqSet => exact absurd rfl hop
    | fftFwd | fftInv | bqProcess => exact ⟨_, rfl⟩
    | rd | fftBandf | bqSetType | bqRecompute | bqClear =>
      match ops, h 0 rfl with
      | [], _ => exact ⟨_, rfl⟩
    | fftCfg | bqSetFreq | bqSetQ | bqSetGain | bqSetBw | bqSetFs | bqTick =>
      match ops, h 1 rfl with
      | [_], _ => exact ⟨_, rfl⟩
    | bqCoeffs =>
      match ops, h 6 rfl with
      | [_, _, _, _, _, _], _ => exact ⟨_, rfl⟩

/-- `BQ.SET` builds a command exactly where the operand count is the one its mask requires. -/
theorem Op.exists_build_bqSet_iff (f : BitVec 24) (ops : List F64) :
    (∃ i, Op.build .bqSet f ops = some i) ↔ ops.length = presentCount (fieldPm f) :=
  ⟨fun ⟨_, h⟩ => ((Option.ite_none_right_eq_some ..).mp h).1, fun h => ⟨_, if_pos h⟩⟩

/-! ### The fields of a word as numbers -/

theorem CmdWord.opc_eq_iff (cw : CmdWord) (code : BitVec 8) :
    CmdWord.opc cw = code ↔ cw.toNat / 2 ^ 24 = code.toNat := by
  rw [← BitVec.toNat_inj, CmdWord.opc, BitVec.extractLsb'_toNat, Nat.shiftRight_eq_div_pow,
    Nat.mod_eq_of_lt (by omega)]

theorem CmdWord.toNat_low (cw : CmdWord) : (CmdWord.low cw).toNat = cw.toNat % 2 ^ 24 :=
  BitVec.extractLsb'_toNat ..

theorem CmdWord.low_and_eq_zero_iff (cw : CmdWord) (mask : BitVec 24) :
    CmdWord.low cw &&& mask = 0 ↔ cw.toNat % 2 ^ 24 &&& mask.toNat = 0 := by
  rw [← BitVec.toNat_inj, BitVec.toNat_and, CmdWord.toNat_low]
  rfl

theorem toNat_zero_append {k m : Nat} (x : BitVec m) : (0#k ++ x).toNat = x.toNat := by
  simp [BitVec.toNat_append]

/-- The "zero" field of `BQ.SET` is everything above the low byte (30_encoding.md R79). -/
theorem CmdWord.low_and_bqSet_zeroMask_iff (cw : CmdWord) :
    CmdWord.low cw &&& Op.bqSet.zeroMask = 0 ↔ cw.toNat % 2 ^ 24 < 2 ^ 8 := by
  have hmask : ~~~Op.bqSet.zeroMask = 0#16 ++ BitVec.allOnes 8 := rfl
  rw [← and_not_eq_self_iff, hmask, and_zero_append_allOnes (k := 16) (m := 8),
    ← BitVec.toNat_inj, toNat_zero_append (k := 16), BitVec.extractLsb'_toNat, Nat.shiftRight_zero,
    CmdWord.toNat_low, Nat.mod_eq_iff_lt (by decide)]

theorem CmdWord.fieldType_low_eq_zero_iff (cw : CmdWord) :
    fieldType (CmdWord.low cw) = 0 ↔ cw.toNat % 16 = 0 := by
  rw [← BitVec.toNat_inj, fieldType, BitVec.extractLsb'_toNat, CmdWord.toNat_low]
  simp

theorem CmdWord.fieldPm_low_getElem (cw : CmdWord) (i : Nat) (hi : i < 4) :
    (fieldPm (CmdWord.low cw))[i] = cw[4 + i] := by
  simp [fieldPm, CmdWord.low, ← BitVec.getLsbD_eq_getElem, hi]

end Sys2Proof

namespace Sys2Proof.Machine

/-! ### The legal packets -/

/-- The rows of the opcode table are those of the opcodes other than `BQ.SET`. -/
theorem exists_mem_commandRows_iff (P : Nat × Nat × Option Nat → Prop) :
    (∃ row ∈ commandRows, P row) ↔
      ∃ op : Op, op ≠ .bqSet ∧ P (op.code.toNat, op.zeroMask.toNat, op.fixedCount) := by
  have hrows : commandRows = (Op.all.filter (· ≠ .bqSet)).map
      fun op => (op.code.toNat, op.zeroMask.toNat, op.fixedCount) := rfl
  have hall : ∀ op : Op, op ∈ Op.all := fun op => by cases op <;> decide
  simp [hrows, hall]

/-- The type condition of `BQ.SET` by the bits of its word (30_encoding.md R85 (c)). -/
theorem typeFieldOk_low_iff (cw : CmdWord) :
    typeFieldOk (fieldType (CmdWord.low cw)) (fieldPm (CmdWord.low cw)) = true ↔
      (cw[4] = false → cw.toNat % 16 = 0) := by
  rw [typeFieldOk, Bool.or_eq_true, beq_iff_eq, CmdWord.fieldPm_low_getElem cw 0,
    CmdWord.fieldType_low_eq_zero_iff]
  cases cw[4 + 0] <;> simp

/-- The operand words the mask of a word requires, by the bits of the word. -/
theorem presentCount_low (cw : CmdWord) :
    presentCount (fieldPm (CmdWord.low cw)) = cw[5].toNat + cw[6].toNat + cw[7].toNat := by
  simp only [presentCount, CmdWord.fieldPm_low_getElem]

/-- A legal `BQ.SET` is a packet of its opcode that passes the checks of the decoder. -/
theorem legalSet_iff (p : Packet) :
    legalSet p ↔ CmdWord.opc p.cw = Op.bqSet.code ∧ CmdWord.low p.cw &&& Op.bqSet.zeroMask = 0 ∧
      typeFieldOk (fieldType (CmdWord.low p.cw)) (fieldPm (CmdWord.low p.cw)) = true ∧
      ∃ i, Op.build .bqSet (CmdWord.low p.cw) p.ops = some i := by
  rw [CmdWord.opc_eq_iff, CmdWord.low_and_bqSet_zeroMask_iff, typeFieldOk_low_iff,
    Op.exists_build_bqSet_iff, presentCount_low]
  rfl

/-- A legal packet of another opcode is one that passes the checks of the decoder. -/
theorem exists_legalRow_iff (p : Packet) :
    (∃ row ∈ commandRows, p.cw.toNat / 2 ^ 24 = row.1 ∧ p.cw.toNat % 2 ^ 24 &&& row.2.1 = 0 ∧
        ∀ k, row.2.2 = some k → p.ops.length = k) ↔
      ∃ op : Op, op ≠ .bqSet ∧ CmdWord.opc p.cw = op.code ∧
        CmdWord.low p.cw &&& op.zeroMask = 0 ∧ ∃ i, op.build (CmdWord.low p.cw) p.ops = some i := by
  rw [exists_mem_commandRows_iff]
  refine exists_congr fun op => and_congr_right fun hop => ?_
  rw [CmdWord.opc_eq_iff, CmdWord.low_and_eq_zero_iff, Op.exists_build_iff hop]

/-- The packets that decode are the legal ones (30_encoding.md R85). -/
theorem exists_decode_iff (p : Packet) : (∃ i, decode p = .ok i) ↔ LegalPacket p := by
  rw [LegalPacket, legalSet_iff, exists_legalRow_iff]
  simp only [decode_eq_ok_iff, Op.ofCode_eq_some_iff]
  constructor
  · rintro ⟨i, op, hcode, hzero, htype, hbuild⟩
    by_cases hop : op = .bqSet
    · subst hop
      exact .inl ⟨hcode, hzero, htype rfl, i, hbuild⟩
    · exact .inr ⟨op, hop, hcode, hzero, i, hbuild⟩
  · rintro (⟨hcode, hzero, htype, i, hbuild⟩ | ⟨op, hop, hcode, hzero, i, hbuild⟩)
    · exact ⟨i, .bqSet, hcode, hzero, fun _ => htype, hbuild⟩
    · exact ⟨i, op, hcode, hzero, fun h => absurd h hop, hbuild⟩

end Sys2Proof.Machine
end

section
/-! SUPPORT. What a command that answers a non-zero status has written (60_exceptions.md R236), and
the fault of a transform (60_exceptions.md R239). -/

namespace Sys2Proof.Machine

variable {i : Instr} {s t : State} {e : Status} {words : List (BitVec 64)}

/-! ### Precise faults -/

/-- A command raises a status or answers status 0. -/
theorem Effect.raised_or_ok (h : Effect i s t) :
    (∃ e, t = (s.latch e).respond e []) ∨
      ∃ words, t.responses = s.responses ++ [{ status := .ok, words := words }] := by
  cases h with
  | raised e => exact .inl ⟨e, rfl⟩
  | configured | transformed | recomputed | injected | filtered | answered => exact .inr ⟨_, rfl⟩

/-- A command that has answered a non-zero status has raised it. -/
theorem Effect.eq_raised (h : Effect i s t)
    (hr : t.responses = s.responses ++ [{ status := e, words := words }]) (he : e ≠ .ok) :
    t = (s.latch e).respond e [] := by
  obtain ⟨e', rfl⟩ | ⟨words', hok⟩ := h.raised_or_ok
  · obtain ⟨rfl, -⟩ : e' = e ∧ [] = words := by simpa using hr
    rfl
  · obtain ⟨hst, -⟩ : e = .ok ∧ words = words' := by simpa using hr.symm.trans hok
    exact absurd hst he

/-- Only the two structural faults are latched (60_exceptions.md R236). -/
theorem latchedStatus_eq_false (h1 : e ≠ .notPow2) (h2 : e ≠ .length) :
    latchedStatus e = false := by
  cases e with
  | notPow2 => exact absurd rfl h1
  | length => exact absurd rfl h2
  | ok | illegal | index | fftFault | capacity => rfl

/-! ### The fault of a transform -/

theorem transformFault_of_not_pow2 (k want : Nat) (herr : s.fft.err = 0)
    (hp : isPow2 s.len = false) : transformFault s k want = some .notPow2 := by
  simp [transformFault, State.faulted_eq_false herr, hp]

theorem transformFault_of_count_ne {k want : Nat} (herr : s.fft.err = 0)
    (hp : isPow2 s.len = true) (hk : k ≠ want) : transformFault s k want = some .length := by
  simp [transformFault, State.faulted_eq_false herr, hp, hk]

/-- `FFT.FWD` raises the fault of its checks (41_fft.md R141). -/
theorem exec_fftFwd_of_fault {buffer : List F64}
    (hf : transformFault s buffer.length s.len = some e) :
    exec (.fftFwd buffer) s = raise e s := by
  simp only [exec, execFftFwd, hf]

/-- `FFT.INV` raises the fault of its checks (41_fft.md R146). -/
theorem exec_fftInv_of_fault {src : BitVec 2} {ops : List F64}
    (hf : transformFault s ops.length (s.len * srcCount src) = some e) :
    exec (.fftInv src ops) s = raise e s := by
  simp only [exec, execFftInv, hf]

end Sys2Proof.Machine
end

section
/-! SUPPORT. The statements about the exceptions (60_exceptions.md). -/

namespace Sys2Proof.Machine

/-- Settles O2: the packets that decode are the legal ones, and any other raises `E_ILLEGAL`, which
is not latched. -/
theorem illegalPacketsAnswerIllegal : Obligations.IllegalPacketsAnswerIllegal := by
  unfold Obligations.IllegalPacketsAnswerIllegal
  intro s p rest hin
  rw [step_of_packet hin, ← exists_decode_iff]
  refine ⟨fun ⟨i, hi⟩ => ⟨i, hi, wf_of_decode hi⟩, fun hno => ?_⟩
  obtain ⟨i, hi, -⟩ | ⟨e, he, hrun⟩ := runPacket_cases p { s with inbox := rest }
  · exact absurd ⟨i, hi⟩ hno
  · exact ⟨⟨e, he⟩, hrun⟩

/-- Settles O57: only a raised status is not 0, and raising writes the latch alone. -/
theorem faultsArePrecise : Obligations.FaultsArePrecise := by
  unfold Obligations.FaultsArePrecise
  intro s t i e ht hr he
  rw [(exec_effect ht).eq_raised hr he]
  refine ⟨fun hl => ?_, fun h1 h2 => ?_⟩
  · obtain rfl | rfl := hl <;> rfl
  · rw [s.latch_of_not_latched e (latchedStatus_eq_false h1 h2)]
    rfl

/-- Settles O28: the first check that fails decides the status the transform raises. -/
theorem transformFaultsInPriorityOrder : Obligations.TransformFaultsInPriorityOrder := by
  unfold Obligations.TransformFaultsInPriorityOrder
  intro s i k want hi
  have hexec : ∀ e, transformFault s k want = some e → exec i s = raise e s := by
    obtain ⟨buffer, rfl, rfl, rfl⟩ | ⟨src, ops, rfl, rfl, rfl⟩ := hi
    · exact fun e => exec_fftFwd_of_fault
    · rw [← srcCount_eq]
      exact fun e => exec_fftInv_of_fault
  exact ⟨fun herr => hexec .fftFault (transformFault_of_faulted k want (s.faulted_iff.mpr herr)),
    fun herr hp => hexec .notPow2 (transformFault_of_not_pow2 k want herr hp),
    fun herr hp hk => hexec .length (transformFault_of_count_ne herr hp hk)⟩

end Sys2Proof.Machine
end

section
/-! SUPPORT. When executing stops: only at an element that does not exist, and only where the arrays
do not have their logical lengths (20_memory.md R51, R52). No arm of `exec` is refused. -/

namespace Sys2Proof.Machine

/-- The outcome `o` from `s` is a next state, or the fault of a state whose arrays do not have their
logical lengths. -/
def StopsOnlyIllFormed (s : State) (o : Outcome) : Prop :=
  Safe o ∨ (o = .fault .noSuchElement ∧ s.mem.wf s.len = false)

variable {s : State} {o : Outcome}

theorem safe_raise (e : Status) (s : State) : Safe (raise e s) := ⟨_, raise_eq e s⟩

theorem safe_answer (words : List (BitVec 64)) (s : State) : Safe (answer words s) :=
  ⟨_, answer_eq words s⟩

/-- From arrays of their logical lengths, such an outcome is a next state. -/
theorem StopsOnlyIllFormed.safe (h : StopsOnlyIllFormed s o) (hw : s.mem.wf s.len = true) :
    Safe o := by
  obtain hsafe | ⟨-, hbad⟩ := h
  · exact hsafe
  · exact absurd (hw.symm.trans hbad) nofun

/-- Such an outcome is never a refusal. -/
theorem StopsOnlyIllFormed.ne_refused (h : StopsOnlyIllFormed s o) (r : Refusal) :
    o ≠ .refused r := by
  obtain ⟨_, rfl⟩ | ⟨rfl, -⟩ := h <;> exact nofun

/-! ### The commands one by one -/

/-- Below the logical length only arrays that are too short lack the element. -/
theorem readSpace_stopsOnlyIllFormed (space : BitVec 4) (i : Nat) (s : State) :
    StopsOnlyIllFormed s (readSpace space i s) := by
  unfold readSpace
  split
  next => exact .inl (safe_raise .index s)
  next hi =>
    split
    next v _ => exact .inl (safe_answer [v] s)
    next hnone =>
      refine .inr ⟨rfl, Bool.eq_false_iff.mpr fun hw => ?_⟩
      have hsome := s.mem.read_isSome s.len space i hw (Nat.lt_of_not_le hi)
      rw [hnone] at hsome
      cases hsome

theorem readCsr_safe (num : Nat) (s : State) : Safe (readCsr num s) := by
  unfold readCsr
  split
  · exact safe_answer ..
  · exact safe_raise ..

theorem execRd_stopsOnlyIllFormed (space : BitVec 4) (idx : BitVec 20) (s : State) :
    StopsOnlyIllFormed s (execRd space idx s) := by
  unfold execRd
  split
  · exact .inl (readCsr_safe ..)
  · exact readSpace_stopsOnlyIllFormed ..

theorem execFftCfg_safe (n : BitVec 24) (fs : F64) (s : State) : Safe (execFftCfg n fs s) := by
  unfold execFftCfg
  split
  · exact safe_raise ..
  · exact safe_answer ..

theorem execFftFwd_stopsOnlyIllFormed (buffer : List F64) (s : State) :
    StopsOnlyIllFormed s (execFftFwd buffer s) := by
  unfold execFftFwd
  split
  next => exact .inl (safe_raise ..)
  next =>
    split
    next => exact .inl (safe_answer ..)
    next hw => exact .inr ⟨rfl, Bool.eq_false_iff.mpr hw⟩

theorem execFftInv_stopsOnlyIllFormed (src : BitVec 2) (ops : List F64) (s : State) :
    StopsOnlyIllFormed s (execFftInv src ops s) := by
  unfold execFftInv
  split
  next => exact .inl (safe_raise ..)
  next =>
    split
    next => exact .inl (safe_answer ..)
    next hw => exact .inr ⟨rfl, Bool.eq_false_iff.mpr hw⟩

theorem execFftBandf_safe (idx : BitVec 24) (s : State) : Safe (execFftBandf idx s) := by
  unfold execFftBandf
  split
  · exact safe_raise ..
  · exact safe_answer ..

/-- Every command gives a next state, or reads an element that the arrays lack. -/
theorem exec_stopsOnlyIllFormed (i : Instr) (s : State) : StopsOnlyIllFormed s (exec i s) := by
  cases i with
  | rd => exact execRd_stopsOnlyIllFormed ..
  | fftCfg => exact .inl (execFftCfg_safe ..)
  | fftFwd => exact execFftFwd_stopsOnlyIllFormed ..
  | fftInv => exact execFftInv_stopsOnlyIllFormed ..
  | fftBandf => exact .inl (execFftBandf_safe ..)
  | bqSet | bqSetType | bqSetFreq | bqSetQ | bqSetGain | bqSetBw | bqSetFs | bqRecompute | bqCoeffs
  | bqTick | bqProcess | bqClear => exact .inl (exec_bqCommand_next s rfl)

/-- A packet runs its command, or is answered `E_ILLEGAL`. -/
theorem runPacket_safe (p : Packet) (hw : s.mem.wf s.len = true) : Safe (runPacket p s) := by
  obtain ⟨i, -, hrun⟩ | ⟨_, -, hrun⟩ := runPacket_cases p s
  · rw [hrun]; exact (exec_stopsOnlyIllFormed i s).safe hw
  · rw [hrun]; exact safe_raise .illegal s

/-! ### The step without a packet -/

/-- A step that finds a reset applies it, whatever it abandons (70_reset_and_hazards.md R260). -/
theorem step_of_reset {abandoned : Option Packet} {rest : List HostInput}
    (h : s.inbox = .reset abandoned :: rest) :
    step s = .next (State.hostReset { s with inbox := rest }) := by
  rw [step, State.nextInput, h]

/-- With nothing sent the block idles (70_reset_and_hazards.md R270). -/
theorem step_of_inbox_nil (h : s.inbox = []) : step s = .next s := by
  rw [step, State.nextInput, h, State.idle]

end Sys2Proof.Machine
end

section
/-! SUPPORT. The statements about reset, idling and stopping (70_reset_and_hazards.md). -/

namespace Sys2Proof.Machine

/-- Settles O55: a command stops only where the arrays lack an element, which the invariant excludes,
and never with a refusal. -/
theorem everyStepGivesANextState : Obligations.EveryStepGivesANextState := by
  unfold Obligations.EveryStepGivesANextState
  refine ⟨fun s hinv => ?_, fun s i r => (exec_stopsOnlyIllFormed i s).ne_refused r⟩
  obtain ⟨-, hs⟩ | ⟨_, rest, -, hs⟩ | ⟨p, rest, -, hs⟩ := step_cases s
  · exact ⟨s, hs⟩
  · exact ⟨_, hs⟩
  · rw [hs]; exact runPacket_safe (s := { s with inbox := rest }) p hinv.mem.wf

/-- Settles O60: the step takes the reset from the host's inputs, and keeps the rest of them, the
responses and the draws. -/
theorem hostResetAndIdle : Obligations.HostResetAndIdle := by
  unfold Obligations.HostResetAndIdle
  exact fun _ _ _ => ⟨step_of_reset, step_of_inbox_nil⟩

end Sys2Proof.Machine
end
